-- ==== Sys2Proof/Word.lean ====
section
/-! DEFINITION. The sizes of the values the engine handles (spec 00_scope R5, R6; 10_state R20): bytes, 16-bit words,
general-register indices. -/

namespace Sys2Proof

/-- An 8-bit value: a general register, a timer, a memory byte (R20). -/
abbrev Byte := BitVec 8

/-- A 16-bit value: `I`, `PC`, a stack entry, an instruction word (R20, R80). -/
abbrev Word := BitVec 16

/-- The index of a general register: a 4-bit field, so every index is valid (R21, R81). -/
abbrev Reg := Fin 16

/-- The index of a key, 0 to 15 (R30). -/
abbrev Key := Fin 16

end Sys2Proof
end

