-- ==== Sys2Proof/Config.lean ====
section
/-! DEFINITION. The implementation parameters of the engine (spec 00_scope R4, R32) as a structure of plain data, and the
one free value of the model, the random byte (60_exceptions R239). The values the parameters take are in
Sys2Proof/Machine/Params.lean. -/

namespace Sys2Proof

/-- SHIFT_SRC (R4, R158, decision D7): the register a shift reads. -/
inductive ShiftSrc where
  | vx
  | vy
deriving DecidableEq, Repr

/-- The parameters of R4 that a decision of the spec sets (D2, D3, D5, D7, D8, D10, D13). -/
structure Config where
  /-- GLYPH_BASE: the address of the glyph set (R51, D2). -/
  glyphBase : Nat
  /-- GLYPH_TABLE: the 80 glyph bytes, digit by digit, row by row (R52, D3). -/
  glyphTable : List Byte
  /-- SHIFT_SRC (R158, R160, D7). -/
  shiftSrc : ShiftSrc
  /-- LDST_I_INC: do LD [I],Vx and LD Vx,[I] leave `I + x + 1` in `I` (R174, R175, D8). -/
  ldstIInc : Bool
  /-- LOGIC_WRITES_VF: do OR, AND, XOR set `V[0xF]` to 0 (R153 to R155, D10). -/
  logicWritesVF : Bool
  /-- STRICT_DECODE: must the low nibble of families 5 and 9 be 0 (R85, D5; log entry 7). -/
  strictDecode : Bool
  /-- KEY_SELECT: the order in which `AnyPressed` looks at the keys (R206, D13; log entry 11). -/
  keySelect : List Key
deriving DecidableEq, Repr

/-- The admissible parameter values: the glyph set lies inside the reserved region (R4, R51), the table has 16 glyphs of
5 bytes (R52), and every key is looked at (R206). -/
abbrev Config.wf (c : Config) : Prop :=
  c.glyphBase + 80 ≤ 0x200 ∧ c.glyphTable.length = 80 ∧ ∀ k : Key, k ∈ c.keySelect

/-- FREE VALUE (log entry 2). The byte that the `n`-th draw of `RandomByte()` gives: "a fresh draw 0 .. 255", "under no
law" (R161, R239, D22). It has no body, so nothing can be proved of its values and a claim about RND holds for every
draw. -/
opaque Config.freeByte : Nat → Byte

end Sys2Proof
end

