-- ==== Sys2Proof/Machine/Params.lean ====
section
/-! DEFINITION. The value each implementation parameter takes (spec 00_scope R4) and the glyph bytes (20_memory R52). -/

namespace Sys2Proof.Machine

/-- R52 (decision D3, from general knowledge): the standard hexadecimal font, 16 glyphs of 5 rows, digits 0 to F in order. -/
def glyphs : List Byte :=
  [0xF0, 0x90, 0x90, 0x90, 0xF0] ++ [0x20, 0x60, 0x20, 0x20, 0x70] ++
  [0xF0, 0x10, 0xF0, 0x80, 0xF0] ++ [0xF0, 0x10, 0xF0, 0x10, 0xF0] ++
  [0x90, 0x90, 0xF0, 0x10, 0x10] ++ [0xF0, 0x80, 0xF0, 0x10, 0xF0] ++
  [0xF0, 0x80, 0xF0, 0x90, 0xF0] ++ [0xF0, 0x10, 0x20, 0x40, 0x40] ++
  [0xF0, 0x90, 0xF0, 0x90, 0xF0] ++ [0xF0, 0x90, 0xF0, 0x10, 0xF0] ++
  [0xF0, 0x90, 0xF0, 0x90, 0x90] ++ [0xE0, 0x90, 0xE0, 0x90, 0xE0] ++
  [0xF0, 0x80, 0x80, 0x80, 0xF0] ++ [0xE0, 0x90, 0x90, 0x90, 0xE0] ++
  [0xF0, 0x80, 0xF0, 0x80, 0xF0] ++ [0xF0, 0x80, 0xF0, 0x80, 0x80]

/-- The parameter values of R4. -/
def params : Config where
  glyphBase := 0x000
  glyphTable := glyphs
  shiftSrc := .vx
  ldstIInc := false
  logicWritesVF := false
  strictDecode := true
  keySelect := [0, 1, 2, 3, 4, 5, 6, 7, 8, 9, 10, 11, 12, 13, 14, 15]

/-- MEM_SIZE: 4096 bytes, addresses 0x000 to 0xFFF (R4, R28). -/
def memSize : Nat := 4096

/-- PROG_BASE: the first byte of the program image and the reset value of `PC` (R4, R33). -/
def progBase : Nat := 0x200

end Sys2Proof.Machine
end

