-- ==== Sys2Proof/Machine/State.lean ====
section
/-! DEFINITION. The state of the engine: everything spec 10_state R20 lists, "the complete architectural state", and four
fields of the model's own (draws, reports, schedule, stage: log entries 1 to 3 and 13); the state after reset (R33, R260);
the reasons a step can stop. -/

namespace Sys2Proof.Machine

/-- MEM (R28): the (address, byte) pairs that differ from the reset contents, addresses strictly rising
(`Memory.wf` in Sys2Proof/Machine/Ops.lean). -/
abbrev Memory := List Host.Cell

/-- The general registers V[0] to V[15] (R21). -/
abbrev RegFile := Vector Byte 16

/-- FB (R29): 32 rows of 64 pixels, `fb[r][c]` the pixel in row `r` and column `c`. -/
abbrev Framebuffer := Vector (Vector Bool 64) 32

/-- STATUS (R31, R118), in the order of its codes 0, 1, 2. -/
inductive Status where
  /-- The last Step, if any, completed an instruction. -/
  | running
  /-- The last Step executed the key-wait instruction and found no key pressed. -/
  | awaitingKey
  /-- A fatal error was raised; only Reset leaves this state. -/
  | halted
deriving DecidableEq, Repr

/-- The register FAULT (R31, R221), in the order of its codes 0 to 3. -/
inductive FaultCode where
  | none
  | stackOverflow
  | stackUnderflow
  | addressOutOfRange
deriving DecidableEq, Repr

/-- What an operation raises (R10): one of the three fatal kinds, with the value R221 says is reported. -/
inductive Raise where
  | stackOverflow
  | stackUnderflow
  /-- The lowest out-of-range byte address, an unbounded integer (R54, R66). -/
  | addressOutOfRange (addr : Nat)
deriving DecidableEq, Repr

/-- A diagnostic event the engine emits. -/
inductive Report where
  /-- `InvalidOpcode(PC, w)`: the address and the word (R114, R225). -/
  | invalidOpcode (pc w : Word)
  /-- A fatal error, delivered with its reported value (R221, R226). -/
  | fatal (r : Raise)
deriving DecidableEq, Repr

/-- The events of R12 that change state. -/
inductive Event where
  /-- One fetch-decode-execute cycle of the engine (R110). -/
  | step
  /-- The timer agent: one decrement of both timers (R231). -/
  | tick
  /-- The input host: key `k` becomes pressed or not (R233). -/
  | setKey (k : Key) (pressed : Bool)
  /-- The host: Reset (R260). -/
  | reset
  /-- The loader: the program image (R261). -/
  | load (image : List Byte)
deriving DecidableEq, Repr

/-- How far the run since the last Reset has come, as far as Load depends on it: "The required order is: Reset, then Load,
then (SetKey x 16, Step) repeated" (R261; log entry 13). -/
inductive Stage where
  /-- No Load and no Step since Reset: the host may load. -/
  | fresh
  /-- The program image is written, "once" (R261). -/
  | loaded
  /-- A Step has run: the loader "never writes again" (R261). -/
  | started
deriving DecidableEq, Repr

structure State where
  /-- V[0..15] (R21); V[0xF] is the flag register (R22). -/
  v : RegFile
  /-- The index register (R23). -/
  i : Word
  /-- The program counter (R24). -/
  pc : Word
  /-- The number of valid stack entries, 0 to 16 (R25). -/
  sp : Fin 17
  /-- STACK[0..15] (R25). -/
  stack : Vector Word 16
  /-- The delay timer (R26). -/
  dt : Byte
  /-- The sound timer (R27). -/
  st : Byte
  /-- MEM (R28). -/
  mem : Memory
  /-- FB (R29). -/
  fb : Framebuffer
  /-- KEY[0..15] (R30). -/
  key : Vector Bool 16
  /-- STATUS (R31). -/
  status : Status
  /-- FAULT (R31). -/
  fault : FaultCode
  /-- INVOP, sticky (R31). -/
  invop : Bool
  /-- The model's own: how many random bytes were drawn (log entry 2). -/
  draws : Nat
  /-- The model's own: the diagnostic events emitted so far, newest first (log entry 3). -/
  reports : List Report
  /-- The model's own: the events that come next, oldest first; when it is empty, Step (log entry 1). -/
  schedule : List Event
  /-- The model's own: whether a Load or a Step has happened since Reset (log entry 13). -/
  stage : Stage
deriving DecidableEq, Repr

/-- R33, R260: the state after Reset. MEM lists nothing, so every byte is the reset content (zero, and the glyph set).
The zeros of V, I, STACK, DT, ST, FB and KEY are the spec's decision D14 (log entry 4); draws, reports, schedule and stage
are the model's own (log entries 1 to 3 and 13). -/
def State.reset : State where
  v := Vector.replicate 16 0x00#8
  i := 0x0000#16
  pc := 0x0200#16
  sp := 0
  stack := Vector.replicate 16 0x0000#16
  dt := 0x00#8
  st := 0x00#8
  mem := []
  fb := Vector.replicate 32 (Vector.replicate 64 false)
  key := Vector.replicate 16 false
  status := .running
  fault := .none
  invop := false
  draws := 0
  reports := []
  schedule := []
  stage := .fresh

/-- Why the machine stops. The three fatal errors of the engine are no constructors here: the spec describes their entry,
so they are next states with STATUS = HALTED (R226; log entry 12). -/
inductive Fault where
  /-- LoadError (R220): the image of a scheduled Load is larger than 3584 bytes. Raised by `occur` in
  Sys2Proof/Machine/Cycle.lean, never by an instruction. Safe: the spec says that "no run exists" then. -/
  | loadError
deriving DecidableEq, Repr

/-- What the model does not accept. -/
inductive Refusal where
  /-- An instruction of the table that has no meaning yet, by its mnemonic. No arm of `exec` answers it: all 35 have
  their meaning. Safe: the machine would stop where the hardware goes on. -/
  | notModelled (mnemonic : String)
  /-- A Load after the first Step. Raised by `occur` in Sys2Proof/Machine/Cycle.lean, never by an instruction. Safe: the
  spec refuses it as a premise on the host (R28, R67, R261; 93_implementation_defined U20). -/
  | lateLoad
  /-- A second Load before the first Step. Raised by `occur`, never by an instruction. Safe: the image is "written once"
  (R261; log entry 13). -/
  | secondLoad
deriving DecidableEq, Repr

end Sys2Proof.Machine
end

