-- ==== Sys2Proof/Machine/Ops.lean ====
section
/-! DEFINITION. The named operations over the state: registers, the program counter (spec 40_cycle R113), the call stack
(10_state R25, 00_scope R9), memory (20_memory R54, R55, R66), the InvalidOpcode report (60_exceptions R225), and taking a
fatal error (R226) with the way out of it, Reset (R227, R260). -/

namespace Sys2Proof.Machine

/-- What a step, or an instruction's meaning, answers. -/
abbrev StepResult := Host.Outcome State Fault Refusal

/-! ## Registers (R7) -/

/-- `V[x]`. -/
def State.reg (s : State) (x : Reg) : Byte := s.v[x.val]

/-- `V[x] <- b`. -/
def State.setReg (s : State) (x : Reg) (b : Byte) : State := { s with v := s.v.set x.val b }

/-- The whole register file replaced (LD Vx,[I], R175). -/
def State.setRegs (s : State) (v : RegFile) : State := { s with v := v }

/-- `I <- a`. -/
def State.setI (s : State) (a : Word) : State := { s with i := a }

/-- `DT <- b`. -/
def State.setDT (s : State) (b : Byte) : State := { s with dt := b }

/-- `ST <- b`. -/
def State.setST (s : State) (b : Byte) : State := { s with st := b }

/-- The framebuffer replaced. -/
def State.setFB (s : State) (fb : Framebuffer) : State := { s with fb := fb }

/-- MEM replaced. -/
def State.setMem (s : State) (m : Memory) : State := { s with mem := m }

/-- `STATUS <- c` (R117, R118). -/
def State.setStatus (s : State) (c : Status) : State := { s with status := c }

/-- The start of a Step that executes: `STATUS' <- RUNNING` (R117), and from now on no Load is accepted (R261). -/
def State.startStep (s : State) : State := { s with status := .running, stage := .started }

/-! ## The program counter (R113) -/

/-- Set directly: `PC <- target`, with no advance in addition. -/
def State.setPC (s : State) (target : Word) : State := { s with pc := target }

/-- Advance: `PC <- PC + 2`. -/
def State.advance (s : State) : State := s.setPC (s.pc + 2#16)

/-- Skip-or-advance: `PC <- PC + 4` if the condition holds, else `PC <- PC + 2`. -/
def State.skipIf (s : State) (cond : Bool) : State := s.setPC (if cond then s.pc + 4#16 else s.pc + 2#16)

/-! ## Fatal errors (R10, R226) -/

/-- The code of STATUS as the host reads it (R31, D18). -/
def Status.code : Status → Nat
  | .running => 0
  | .awaitingKey => 1
  | .halted => 2

/-- The code of FAULT as the host reads it (R31, R221, D18). -/
def FaultCode.code : FaultCode → Nat
  | .none => 0
  | .stackOverflow => 1
  | .stackUnderflow => 2
  | .addressOutOfRange => 3

/-- The FAULT value of a fatal kind (R221). -/
def Raise.code : Raise → FaultCode
  | .stackOverflow => .stackOverflow
  | .stackUnderflow => .stackUnderflow
  | .addressOutOfRange _ => .addressOutOfRange

/-- The event code of a report (R221, D18): 4 for InvalidOpcode, for a fatal error its FAULT code. -/
def Report.code : Report → Nat
  | .invalidOpcode _ _ => 4
  | .fatal r => r.code.code

/-- The event code of the loader's error (R221, D18). -/
def Fault.code : Fault → Nat
  | .loadError => 5

/-- TAKING A FATAL ERROR (R226): `FAULT <- kind`, `STATUS <- HALTED`, and the report; `s` is the state before the
instruction, so every write of the instruction is discarded and PC keeps the instruction's address. Nothing is saved and
control goes nowhere. -/
def State.raise (s : State) (r : Raise) : State :=
  { s with fault := r.code, status := .halted, reports := .fatal r :: s.reports }

/-- THE ONLY WAY OUT OF HALTED (R227): the event Reset (R260) puts every element of R20 at its reset value. The draws go
on and the reports stay (they are no state of the engine), the schedule is the host's, and an image may be loaded again. -/
def State.onReset (s : State) : State :=
  { State.reset with draws := s.draws, reports := s.reports, schedule := s.schedule }

/-- How an instruction ends that may raise: its new state, or `s`, the state before it, with the fatal error taken (R10,
all-or-nothing). -/
def orRaise (s : State) (r : Except Raise State) : StepResult :=
  match r with
  | .ok t => .next t
  | .error e => .next (s.raise e)

/-- R114, R225: report InvalidOpcode(PC, w), `INVOP <- 1`, `PC <- PC + 2`, and nothing else. -/
def State.invalidOpcode (s : State) (w : Word) : State :=
  { s with reports := .invalidOpcode s.pc w :: s.reports, invop := true, pc := s.pc + 2#16 }

/-! ## The call stack (R9, R25) -/

/-- `Push(a)`: StackOverflow when 16 entries are on the stack. -/
def push (s : State) (a : Word) : Except Raise State :=
  if h : s.sp.val < 16 then
    .ok { s with stack := s.stack.set s.sp.val a, sp := ⟨s.sp.val + 1, by omega⟩ }
  else .error .stackOverflow

/-- `Pop()`: StackUnderflow when the stack is empty, else the top entry and the state without it; the entry keeps its bits
in the array. -/
def pop (s : State) : Except Raise (Word × State) :=
  if h : 0 < s.sp.val then
    .ok (s.stack[s.sp.val - 1], { s with sp := ⟨s.sp.val - 1, by omega⟩ })
  else .error .stackUnderflow

/-! ## Memory (R50 to R55) -/

/-- What an address that MEM does not list reads as: the reset contents (R33), the glyph set at GLYPH_BASE and zero
elsewhere. -/
def Memory.background (a : Nat) : Byte :=
  if params.glyphBase ≤ a ∧ a < params.glyphBase + 80 then params.glyphTable.getD (a - params.glyphBase) 0x00#8
  else 0x00#8

/-- The byte at address `a`. -/
def Memory.read : Memory → Nat → Byte
  | [], a => Memory.background a
  | (a', b') :: m, a => if a = a' then b' else Memory.read m a

/-- One cell put in front of `m`, unless it holds what its address reads as anyway. -/
def Memory.cons (a : Nat) (b : Byte) (m : Memory) : Memory :=
  if b = Memory.background a then m else (a, b) :: m

/-- `MEM[a] <- b`, keeping the canonical form. -/
def Memory.write : Memory → Nat → Byte → Memory
  | [], a, b => Memory.cons a b []
  | (a', b') :: m, a, b =>
    if a < a' then Memory.cons a b ((a', b') :: m)
    else if a = a' then Memory.cons a b m
    else (a', b') :: Memory.write m a b

/-- The canonical form: addresses strictly rising, all inside the 4096 bytes (R50), no cell equal to what its address
reads as when it is not listed. -/
abbrev Memory.wf (m : Memory) : Prop :=
  m.Pairwise (fun c d => c.1 < d.1) ∧ ∀ c ∈ m, c.1 < memSize ∧ c.2 ≠ Memory.background c.1

/-- `MemRead(a, 1)` (R54): AddressOutOfRange(a) above 4095. -/
def memRead (m : Memory) (a : Nat) : Except Raise Byte :=
  if a < memSize then .ok (Memory.read m a) else .error (.addressOutOfRange a)

/-- `MemWrite(a, 1, b)` (R54): AddressOutOfRange(a) above 4095. -/
def memWrite (m : Memory) (a : Nat) (b : Byte) : Except Raise Memory :=
  if a < memSize then .ok (Memory.write m a b) else .error (.addressOutOfRange a)

/-- `MemRead(a, 2)` (R55): big-endian, high byte at `a`; it raises at the first byte that is out of range. -/
def memReadWord (m : Memory) (a : Nat) : Except Raise Word :=
  match memRead m a with
  | .error r => .error r
  | .ok hi =>
    match memRead m (a + 1) with
    | .error r => .error r
    | .ok lo => .ok (hi ++ lo)

/-- `count` bytes at ascending addresses from `base` (R58), the address an unbounded integer (R66); it raises at the lowest
address that is out of range, and no address is formed when `count` is 0. -/
def memReadSpan (m : Memory) (base : Nat) : Nat → Except Raise (List Byte)
  | 0 => .ok []
  | count + 1 =>
    match memRead m base with
    | .error r => .error r
    | .ok b =>
      match memReadSpan m (base + 1) count with
      | .error r => .error r
      | .ok bs => .ok (b :: bs)

/-- The bytes written at ascending addresses from `base` (R58); it raises at the lowest address that is out of range, and
then no byte is written (R66). -/
def memWriteSpan (m : Memory) (base : Nat) : List Byte → Except Raise Memory
  | [] => .ok m
  | b :: bs =>
    match memWrite m base b with
    | .error r => .error r
    | .ok m' => memWriteSpan m' (base + 1) bs

/-! ## Random bytes (R239) -/

/-- `RandomByte()`: a fresh free value (log entry 2), and the state with the draw taken. -/
def randomByte (s : State) : Byte × State :=
  (Config.freeByte s.draws, { s with draws := s.draws + 1 })

end Sys2Proof.Machine
end

