-- ==== Sys2Proof/Machine/Flags.lean ====
section
/-! DEFINITION. The flag register `V[0xF]` (spec 10_state R22): the value each flag-setting instruction gives it, and how a
result and a flag are written (42_alu R163). -/

namespace Sys2Proof.Machine

/-- The flag register, general register 15 (R22). -/
def flagReg : Reg := 15

/-- A flag is the byte 0x01 or 0x00 (R22, D11). -/
def flagByte (b : Bool) : Byte := if b then 0x01#8 else 0x00#8

/-- Carry of ADD Vx,Vy: the 8-bit sum overflows (R156). -/
def carry (a b : Byte) : Byte := flagByte (decide (255 < a.toNat + b.toNat))

/-- Not-borrow of a subtraction: minuend ≥ subtrahend (R157, R159). -/
def notBorrow (minuend subtrahend : Byte) : Byte := flagByte (decide (subtrahend.toNat ≤ minuend.toNat))

/-- The bit shifted out to the right: bit 0 (R158). -/
def shiftedOutRight (b : Byte) : Byte := flagByte (b.getLsbD 0)

/-- The bit shifted out to the left: bit 7 (R160). -/
def shiftedOutLeft (b : Byte) : Byte := flagByte (b.getLsbD 7)

/-- `V[0xF] <- f`. -/
def State.setFlag (s : State) (f : Byte) : State := s.setReg flagReg f

/-- R163: the result is written to `V[x]`, then the flag to `V[0xF]`, so with x = 15 the flag remains; then the advance. -/
def State.resultAndFlag (s : State) (x : Reg) (result flag : Byte) : State :=
  ((s.setReg x result).setFlag flag).advance

/-- The end of OR, AND and XOR: the result to `V[x]`, and `V[0xF] <- 0` only with LOGIC_WRITES_VF (R153 to R155, D10). -/
def State.logicResult (c : Config) (s : State) (x : Reg) (result : Byte) : State :=
  if c.logicWritesVF then s.resultAndFlag x result 0x00#8 else (s.setReg x result).advance

end Sys2Proof.Machine
end

