-- ==== Sys2Proof/Machine/Operands.lean ====
section
/-! DEFINITION. The operand forms of the instructions: literals (spec 30_encoding R83), the low nibble of a register (R172,
R200), the shift source (R158), registers 0 to x (R174, R175), the glyph address (R172), decimal digits (R173) and the key
that AnyPressed finds (R206). -/

namespace Sys2Proof.Machine

/-- A 12-bit literal where a 16-bit value is wanted: zero-extended (R83). -/
def literal12 (nnn : BitVec 12) : Word := nnn.setWidth 16

/-- An 8-bit register where a 16-bit value is wanted: zero-extended (R137, R171). -/
def widen (b : Byte) : Word := b.setWidth 16

/-- The low 4 bits of a byte, as the index of a key or a glyph (R172, R200). -/
def lowNibble (b : Byte) : Fin 16 := (b.extractLsb' 0 4).toFin

/-- The value a shift operates on: `V[x]`, or `V[y]` with SHIFT_SRC = Y (R158, R160, D7). -/
def shiftOperand (c : Config) (s : State) (x y : Reg) : Byte :=
  match c.shiftSrc with
  | .vx => s.reg x
  | .vy => s.reg y

/-- `V[0], ..., V[x]`, `x + 1` bytes in ascending order (R174). -/
def dumpedRegs (v : RegFile) (x : Reg) : List Byte := v.toList.take (x.val + 1)

/-- The register file with the given bytes loaded from register `k` upward (R175). -/
def loadedRegs (v : RegFile) (k : Nat) : List Byte → RegFile
  | [] => v
  | b :: bs => loadedRegs (v.setIfInBounds k b) (k + 1) bs

/-- `I` after LD [I],Vx and LD Vx,[I]: unchanged, or `I + x + 1` with LDST_I_INC (R174, R175, D8). -/
def indexAfter (c : Config) (i : Word) (x : Reg) : Word :=
  if c.ldstIInc then i + BitVec.ofNat 16 (x.val + 1) else i

/-- `GLYPH_BASE + 5 * (b & 0x0F)` (R172). -/
def glyphAddress (c : Config) (b : Byte) : Word :=
  BitVec.ofNat 16 (c.glyphBase + 5 * (lowNibble b).val)

/-- Hundreds, tens and ones, each a binary byte 0 to 9 (R173). -/
def bcdDigits (b : Byte) : List Byte :=
  [BitVec.ofNat 8 (b.toNat / 100), BitVec.ofNat 8 (b.toNat / 10 % 10), BitVec.ofNat 8 (b.toNat % 10)]

/-- `IsPressed(k)` (R206). -/
def isPressed (s : State) (k : Key) : Bool := s.key[k.val]

/-- `AnyPressed()` (R206): the first pressed key in the order KEY_SELECT, or none. -/
def anyPressed (c : Config) (s : State) : Option Key := c.keySelect.find? fun k => isPressed s k

/-- A key index as the byte stored in a register (R202). -/
def keyByte (k : Key) : Byte := BitVec.ofNat 8 k.val

end Sys2Proof.Machine
end

