-- ==== Sys2Proof/Machine/Alu.lean ====
section
/-! DEFINITION. The register file and ALU instructions (spec 42_alu R150 to R163). Every operand is read from `s`, the
state before the instruction (R163). -/

namespace Sys2Proof.Machine

/-- LD Vx, nn (R150). -/
def execLdImm (x : Reg) (nn : Byte) (s : State) : StepResult :=
  .next (s.setReg x nn).advance

/-- ADD Vx, nn (R151): 8-bit wrap, no flag. -/
def execAddImm (x : Reg) (nn : Byte) (s : State) : StepResult :=
  .next (s.setReg x (s.reg x + nn)).advance

/-- LD Vx, Vy (R152). -/
def execLdReg (x y : Reg) (s : State) : StepResult :=
  .next (s.setReg x (s.reg y)).advance

/-- OR Vx, Vy (R153). -/
def execOr (x y : Reg) (s : State) : StepResult :=
  .next (s.logicResult params x (s.reg x ||| s.reg y))

/-- AND Vx, Vy (R154). -/
def execAnd (x y : Reg) (s : State) : StepResult :=
  .next (s.logicResult params x (s.reg x &&& s.reg y))

/-- XOR Vx, Vy (R155). -/
def execXor (x y : Reg) (s : State) : StepResult :=
  .next (s.logicResult params x (s.reg x ^^^ s.reg y))

/-- ADD Vx, Vy (R156): VF is the carry. -/
def execAddReg (x y : Reg) (s : State) : StepResult :=
  .next (s.resultAndFlag x (s.reg x + s.reg y) (carry (s.reg x) (s.reg y)))

/-- SUB Vx, Vy (R157): V[x] - V[y], VF is NOT borrow. -/
def execSub (x y : Reg) (s : State) : StepResult :=
  .next (s.resultAndFlag x (s.reg x - s.reg y) (notBorrow (s.reg x) (s.reg y)))

/-- SHR Vx, Vy (R158): one position, zero enters bit 7, VF is the old bit 0. -/
def execShr (x y : Reg) (s : State) : StepResult :=
  .next (s.resultAndFlag x (shiftOperand params s x y >>> 1) (shiftedOutRight (shiftOperand params s x y)))

/-- SUBN Vx, Vy (R159): V[y] - V[x], VF is NOT borrow. -/
def execSubn (x y : Reg) (s : State) : StepResult :=
  .next (s.resultAndFlag x (s.reg y - s.reg x) (notBorrow (s.reg y) (s.reg x)))

/-- SHL Vx, Vy (R160): one position, zero enters bit 0, VF is the old bit 7. -/
def execShl (x y : Reg) (s : State) : StepResult :=
  .next (s.resultAndFlag x (shiftOperand params s x y <<< 1) (shiftedOutLeft (shiftOperand params s x y)))

/-- RND Vx, nn (R161): a fresh draw AND the literal. -/
def execRnd (x : Reg) (nn : Byte) (s : State) : StepResult :=
  .next ((randomByte s).2.setReg x ((randomByte s).1 &&& nn)).advance

end Sys2Proof.Machine
end

