-- ==== Sys2Proof/Machine/Framebuffer.lean ====
section
/-! DEFINITION. The framebuffer engine (spec 44_display R192 to R194): clear, draw a sprite by XOR-blend, query a pixel. -/

namespace Sys2Proof.Machine

/-- `FbClear()` (R192): every pixel 0. -/
def fbClear : Framebuffer := Vector.replicate 32 (Vector.replicate 64 false)

/-- The pixel at `(x, y)`, coordinates taken modulo 64 and 32 (R29). -/
def fbPixel (fb : Framebuffer) (x y : Nat) : Bool :=
  (fb[y % 32]'(Nat.mod_lt _ (by decide)))[x % 64]'(Nat.mod_lt _ (by decide))

/-- `FB[y mod 32][x mod 64] <- FB[y mod 32][x mod 64] ^ 1` (R193). -/
def fbToggle (fb : Framebuffer) (x y : Nat) : Framebuffer :=
  fb.set (y % 32)
    ((fb[y % 32]'(Nat.mod_lt _ (by decide))).set (x % 64) (!fbPixel fb x y) (Nat.mod_lt _ (by decide)))
    (Nat.mod_lt _ (by decide))

/-- One pass of the inner loop of R193: bit 7 is column 0 (D12); a bit that is 1 toggles its pixel, and there is a
collision if that pixel was set. -/
def drawBit (x y : Nat) (b : Byte) (acc : Framebuffer × Bool) (col : Nat) : Framebuffer × Bool :=
  if b.getLsbD (7 - col) then (fbToggle acc.1 (x + col) y, acc.2 || fbPixel acc.1 (x + col) y) else acc

/-- One row of a sprite: columns 0 to 7 (R193). -/
def drawRow (x y : Nat) (b : Byte) (acc : Framebuffer × Bool) : Framebuffer × Bool :=
  [0, 1, 2, 3, 4, 5, 6, 7].foldl (drawBit x y b) acc

/-- The rows of a sprite, the first at `y` (R193). -/
def drawRows (x : Nat) : Nat → List Byte → Framebuffer × Bool → Framebuffer × Bool
  | _, [], acc => acc
  | y, b :: bs, acc => drawRows x (y + 1) bs (drawRow x y b acc)

/-- `DrawSprite(x, y, bytes) -> collision` (R193), with the new framebuffer. -/
def drawSprite (fb : Framebuffer) (x y : Byte) (bytes : List Byte) : Framebuffer × Bool :=
  drawRows x.toNat y.toNat bytes (fb, false)

/-- The host query `pixel_at(x, y)` (R194): a pure read, coordinates modulo the grid (D1). -/
def State.pixelAt (s : State) (x y : Nat) : Bool := fbPixel s.fb x y

end Sys2Proof.Machine
end

