-- ==== Sys2Proof/Machine/Display.lean ====
section
/-! DEFINITION. The framebuffer instructions (spec 44_display R190, R191). -/

namespace Sys2Proof.Machine

/-- CLS (R190). -/
def execCls (s : State) : StepResult :=
  .next (s.setFB fbClear).advance

/-- DRW Vx, Vy, n (R191): `n` sprite bytes from MEM[I], drawn at the coordinates V[x], V[y] of the state before; VF is the
collision, written also when n = 0; AddressOutOfRange and nothing drawn if a sprite byte does not exist. -/
def execDrw (x y : Reg) (n : BitVec 4) (s : State) : StepResult :=
  orRaise s ((memReadSpan s.mem s.i.toNat n.toNat).map fun bytes =>
    ((s.setFB (drawSprite s.fb (s.reg x) (s.reg y) bytes).1).setFlag
      (flagByte (drawSprite s.fb (s.reg x) (s.reg y) bytes).2)).advance)

end Sys2Proof.Machine
end

