-- ==== Sys2Proof/Machine/Flow.lean ====
section
/-! DEFINITION. Control transfer (spec 41_flow R130 to R138). -/

namespace Sys2Proof.Machine

/-- RET (R130): pop into PC, set directly; StackUnderflow when the stack is empty. -/
def execRet (s : State) : StepResult :=
  orRaise s ((pop s).map fun (a, t) => t.setPC a)

/-- JP nnn (R131). -/
def execJp (nnn : BitVec 12) (s : State) : StepResult :=
  .next (s.setPC (literal12 nnn))

/-- CALL nnn (R132): push the address of the next instruction, then set PC; StackOverflow when 16 entries are held. -/
def execCall (nnn : BitVec 12) (s : State) : StepResult :=
  orRaise s ((push s (s.pc + 2#16)).map fun t => t.setPC (literal12 nnn))

/-- SE Vx, nn (R133). -/
def execSeImm (x : Reg) (nn : Byte) (s : State) : StepResult :=
  .next (s.skipIf (s.reg x == nn))

/-- SNE Vx, nn (R134). -/
def execSneImm (x : Reg) (nn : Byte) (s : State) : StepResult :=
  .next (s.skipIf (s.reg x != nn))

/-- SE Vx, Vy (R135). -/
def execSeReg (x y : Reg) (s : State) : StepResult :=
  .next (s.skipIf (s.reg x == s.reg y))

/-- SNE Vx, Vy (R136). -/
def execSneReg (x y : Reg) (s : State) : StepResult :=
  .next (s.skipIf (s.reg x != s.reg y))

/-- JP V0, nnn (R137): the sum is not masked to 12 bits. -/
def execJpV0 (nnn : BitVec 12) (s : State) : StepResult :=
  .next (s.setPC (literal12 nnn + widen (s.reg 0)))

end Sys2Proof.Machine
end

