-- ==== Sys2Proof/Machine/IndexMemory.lean ====
section
/-! DEFINITION. The index register and memory instructions (spec 43_index_memory R170 to R177). -/

namespace Sys2Proof.Machine

/-- LD I, nnn (R170). -/
def execLdI (nnn : BitVec 12) (s : State) : StepResult :=
  .next (s.setI (literal12 nnn)).advance

/-- ADD I, Vx (R171): 16-bit wrap, no flag. -/
def execAddI (x : Reg) (s : State) : StepResult :=
  .next (s.setI (s.i + widen (s.reg x))).advance

/-- LD F, Vx (R172): the address of the glyph of the low 4 bits of V[x]. -/
def execLdF (x : Reg) (s : State) : StepResult :=
  .next (s.setI (glyphAddress params (s.reg x))).advance

/-- LD B, Vx (R173): three decimal digits to MEM[I], MEM[I+1], MEM[I+2]; AddressOutOfRange and no write if one of them does
not exist. -/
def execLdB (x : Reg) (s : State) : StepResult :=
  orRaise s ((memWriteSpan s.mem s.i.toNat (bcdDigits (s.reg x))).map fun m => (s.setMem m).advance)

/-- LD [I], Vx (R174): V[0] to V[x] to MEM[I] to MEM[I+x]; AddressOutOfRange and no write if one of them does not exist. -/
def execLdMemVx (x : Reg) (s : State) : StepResult :=
  orRaise s ((memWriteSpan s.mem s.i.toNat (dumpedRegs s.v x)).map fun m =>
    ((s.setMem m).setI (indexAfter params s.i x)).advance)

/-- LD Vx, [I] (R175): V[0] to V[x] from MEM[I] to MEM[I+x]; AddressOutOfRange and no write if one of them does not
exist. -/
def execLdVxMem (x : Reg) (s : State) : StepResult :=
  orRaise s ((memReadSpan s.mem s.i.toNat (x.val + 1)).map fun bs =>
    ((s.setRegs (loadedRegs s.v 0 bs)).setI (indexAfter params s.i x)).advance)

end Sys2Proof.Machine
end

