-- ==== Sys2Proof/Machine/KeysTimers.lean ====
section
/-! DEFINITION. The key and timer instructions (spec 45_keys_timers R200 to R207). -/

namespace Sys2Proof.Machine

/-- SKP Vx (R200): skip if the key of the low 4 bits of V[x] is pressed. -/
def execSkp (x : Reg) (s : State) : StepResult :=
  .next (s.skipIf (isPressed s (lowNibble (s.reg x))))

/-- SKNP Vx (R201): skip if that key is not pressed. -/
def execSknp (x : Reg) (s : State) : StepResult :=
  .next (s.skipIf (!isPressed s (lowNibble (s.reg x))))

/-- LD Vx, DT (R203). -/
def execLdVxDT (x : Reg) (s : State) : StepResult :=
  .next (s.setReg x s.dt).advance

/-- LD Vx, K (R202): with no key pressed nothing changes but STATUS; else the key's index goes to V[x]. -/
def execLdVxK (x : Reg) (s : State) : StepResult :=
  match anyPressed params s with
  | none => .next (s.setStatus .awaitingKey)
  | some k => .next (s.setReg x (keyByte k)).advance

/-- LD DT, Vx (R204). -/
def execLdDTVx (x : Reg) (s : State) : StepResult :=
  .next (s.setDT (s.reg x)).advance

/-- LD ST, Vx (R205). -/
def execLdSTVx (x : Reg) (s : State) : StepResult :=
  .next (s.setST (s.reg x)).advance

end Sys2Proof.Machine
end

