-- ==== Sys2Proof/Syntax.lean ====
section
/-! DEFINITION. The 35 entries of the instruction table (spec 30_encoding R84), in the table's order: one constructor per
row of spec/opcode_table.json, each with the operand fields its format has (R81, R82). -/

namespace Sys2Proof

inductive Instr where
  /-- 00E0 CLS, clear screen (R190). -/
  | cls
  /-- 00EE RET, return from subroutine (R130). -/
  | ret
  /-- 0nnn SYS nnn, the entry without a contract, executed as an invalid opcode (R115). -/
  | sys (nnn : BitVec 12)
  /-- 1nnn JP nnn (R131). -/
  | jp (nnn : BitVec 12)
  /-- 2nnn CALL nnn (R132). -/
  | call (nnn : BitVec 12)
  /-- 3xnn SE Vx, nn (R133). -/
  | seImm (x : Reg) (nn : Byte)
  /-- 4xnn SNE Vx, nn (R134). -/
  | sneImm (x : Reg) (nn : Byte)
  /-- 5xy0 SE Vx, Vy (R135). -/
  | seReg (x y : Reg)
  /-- 6xnn LD Vx, nn (R150). -/
  | ldImm (x : Reg) (nn : Byte)
  /-- 7xnn ADD Vx, nn (R151). -/
  | addImm (x : Reg) (nn : Byte)
  /-- 8xy0 LD Vx, Vy (R152). -/
  | ldReg (x y : Reg)
  /-- 8xy1 OR Vx, Vy (R153). -/
  | orReg (x y : Reg)
  /-- 8xy2 AND Vx, Vy (R154). -/
  | andReg (x y : Reg)
  /-- 8xy3 XOR Vx, Vy (R155). -/
  | xorReg (x y : Reg)
  /-- 8xy4 ADD Vx, Vy (R156). -/
  | addReg (x y : Reg)
  /-- 8xy5 SUB Vx, Vy (R157). -/
  | subReg (x y : Reg)
  /-- 8xy6 SHR Vx, Vy (R158); the `y` field is kept, though the engine ignores it (R87). -/
  | shr (x y : Reg)
  /-- 8xy7 SUBN Vx, Vy (R159). -/
  | subn (x y : Reg)
  /-- 8xyE SHL Vx, Vy (R160); the `y` field is kept, though the engine ignores it (R87). -/
  | shl (x y : Reg)
  /-- 9xy0 SNE Vx, Vy (R136). -/
  | sneReg (x y : Reg)
  /-- Annn LD I, nnn (R170). -/
  | ldI (nnn : BitVec 12)
  /-- Bnnn JP V0, nnn (R137). -/
  | jpV0 (nnn : BitVec 12)
  /-- Cxnn RND Vx, nn (R161). -/
  | rnd (x : Reg) (nn : Byte)
  /-- Dxyn DRW Vx, Vy, n (R191). -/
  | drw (x y : Reg) (n : BitVec 4)
  /-- Ex9E SKP Vx (R200). -/
  | skp (x : Reg)
  /-- ExA1 SKNP Vx (R201). -/
  | sknp (x : Reg)
  /-- Fx07 LD Vx, DT (R203). -/
  | ldVxDT (x : Reg)
  /-- Fx0A LD Vx, K (R202). -/
  | ldVxK (x : Reg)
  /-- Fx15 LD DT, Vx (R204). -/
  | ldDTVx (x : Reg)
  /-- Fx18 LD ST, Vx (R205). -/
  | ldSTVx (x : Reg)
  /-- Fx1E ADD I, Vx (R171). -/
  | addI (x : Reg)
  /-- Fx29 LD F, Vx (R172). -/
  | ldF (x : Reg)
  /-- Fx33 LD B, Vx (R173). -/
  | ldB (x : Reg)
  /-- Fx55 LD [I], Vx, dump registers (R174). -/
  | ldMemVx (x : Reg)
  /-- Fx65 LD Vx, [I], load registers (R175). -/
  | ldVxMem (x : Reg)
deriving DecidableEq, Repr

end Sys2Proof
end

