-- ==== Sys2Proof/WellFormed.lean ====
section
/-! DEFINITION. Which terms of `Instr` are instructions of the table. The operand types already bound every field (a
register index is 4 bits, R21; `n`, `nn`, `nnn` have their widths, R81), so one check is left: the words 00E0 and 00EE
are CLS and RET, not SYS (spec 30_encoding R85, tie-break (a)). -/

namespace Sys2Proof

/-- Tie-break (a) of R85: SYS nnn is "every other 0nnn word", 4094 of them. -/
def Instr.wellFormed : Instr → Bool
  | .sys nnn => nnn != 0x0E0#12 && nnn != 0x0EE#12
  | _ => true

/-- `i.wellFormed` as a proposition. -/
abbrev WellFormed (i : Instr) : Prop := i.wellFormed = true

end Sys2Proof
end

