-- ==== Sys2Proof/Decode.lean ====
section
/-! DEFINITION. The decoder of spec 30_encoding R85, total on all 65536 words and on any bytes, rejecting by name; the
opcode map of R84 as a table of masks and matches with the table's own priority; and the encoder, written from the six
formats of R82. -/

namespace Sys2Proof

/-! ## Fields of a word (R81) -/

/-- `op = w[15:12]`, the family. -/
def fieldOp (w : Word) : BitVec 4 := w.extractLsb' 12 4

/-- `x = w[11:8]`. -/
def fieldX (w : Word) : Reg := (w.extractLsb' 8 4).toFin

/-- `y = w[7:4]`. -/
def fieldY (w : Word) : Reg := (w.extractLsb' 4 4).toFin

/-- `n = w[3:0]`. -/
def fieldN (w : Word) : BitVec 4 := w.extractLsb' 0 4

/-- `nn = w[7:0]`. -/
def fieldNN (w : Word) : Byte := w.extractLsb' 0 8

/-- `nnn = w[11:0]`. -/
def fieldNNN (w : Word) : BitVec 12 := w.extractLsb' 0 12

/-! ## The decoder (R85) -/

/-- Why a word is invalid: one name per row of the table of R86 (SYS, its first row, is decoded), and one for bytes that
hold no whole word. -/
inductive Reject where
  /-- 5xyn with n ≠ 0: sub-opcode mismatch. -/
  | family5
  /-- 8xyn with n in 8, 9, A, B, C, D, F: no such register operation. -/
  | family8
  /-- 9xyn with n ≠ 0: sub-opcode mismatch. -/
  | family9
  /-- Exnn with nn not 9E or A1: no such key operation. -/
  | familyE
  /-- Fxnn with nn not in the list of R85: no such operation. -/
  | familyF
  /-- Fewer than two bytes: every instruction is two bytes (R80). -/
  | truncated
deriving DecidableEq, Repr

/-- Family 0 (R85): the two whole-word patterns win over 0nnn. -/
def decode0 (w : Word) : Except Reject Instr :=
  if w = 0x00E0#16 then .ok .cls
  else if w = 0x00EE#16 then .ok .ret
  else .ok (.sys (fieldNNN w))

/-- Family 8 (R85): the low nibble is a sub-opcode. -/
def decode8 (w : Word) : Except Reject Instr :=
  match (fieldN w).toNat with
  | 0x0 => .ok (.ldReg (fieldX w) (fieldY w))
  | 0x1 => .ok (.orReg (fieldX w) (fieldY w))
  | 0x2 => .ok (.andReg (fieldX w) (fieldY w))
  | 0x3 => .ok (.xorReg (fieldX w) (fieldY w))
  | 0x4 => .ok (.addReg (fieldX w) (fieldY w))
  | 0x5 => .ok (.subReg (fieldX w) (fieldY w))
  | 0x6 => .ok (.shr (fieldX w) (fieldY w))
  | 0x7 => .ok (.subn (fieldX w) (fieldY w))
  | 0xE => .ok (.shl (fieldX w) (fieldY w))
  | _ => .error .family8

/-- Family E (R85): the low byte is a sub-opcode. -/
def decodeE (w : Word) : Except Reject Instr :=
  if fieldNN w = 0x9E#8 then .ok (.skp (fieldX w))
  else if fieldNN w = 0xA1#8 then .ok (.sknp (fieldX w))
  else .error .familyE

/-- Family F (R85): the low byte is a sub-opcode. -/
def decodeF (w : Word) : Except Reject Instr :=
  if fieldNN w = 0x07#8 then .ok (.ldVxDT (fieldX w))
  else if fieldNN w = 0x0A#8 then .ok (.ldVxK (fieldX w))
  else if fieldNN w = 0x15#8 then .ok (.ldDTVx (fieldX w))
  else if fieldNN w = 0x18#8 then .ok (.ldSTVx (fieldX w))
  else if fieldNN w = 0x1E#8 then .ok (.addI (fieldX w))
  else if fieldNN w = 0x29#8 then .ok (.ldF (fieldX w))
  else if fieldNN w = 0x33#8 then .ok (.ldB (fieldX w))
  else if fieldNN w = 0x55#8 then .ok (.ldMemVx (fieldX w))
  else if fieldNN w = 0x65#8 then .ok (.ldVxMem (fieldX w))
  else .error .familyF

/-- `Decode(w)` of R85, with STRICT_DECODE as an argument: when it is false, families 5 and 9 match on the leading nibble
alone (decision D5; log entry 7). -/
def decodeWith (strict : Bool) (w : Word) : Except Reject Instr :=
  match (fieldOp w).toNat with
  | 0x0 => decode0 w
  | 0x1 => .ok (.jp (fieldNNN w))
  | 0x2 => .ok (.call (fieldNNN w))
  | 0x3 => .ok (.seImm (fieldX w) (fieldNN w))
  | 0x4 => .ok (.sneImm (fieldX w) (fieldNN w))
  | 0x5 => if strict && fieldN w != 0#4 then .error .family5 else .ok (.seReg (fieldX w) (fieldY w))
  | 0x6 => .ok (.ldImm (fieldX w) (fieldNN w))
  | 0x7 => .ok (.addImm (fieldX w) (fieldNN w))
  | 0x8 => decode8 w
  | 0x9 => if strict && fieldN w != 0#4 then .error .family9 else .ok (.sneReg (fieldX w) (fieldY w))
  | 0xA => .ok (.ldI (fieldNNN w))
  | 0xB => .ok (.jpV0 (fieldNNN w))
  | 0xC => .ok (.rnd (fieldX w) (fieldNN w))
  | 0xD => .ok (.drw (fieldX w) (fieldY w) (fieldN w))
  | 0xE => decodeE w
  | _ => decodeF w

/-- R85, R112: the decoder of the engine. It looks at the word and at no state. -/
def decode (w : Word) : Except Reject Instr :=
  decodeWith Machine.params.strictDecode w

/-- R80: the instruction at the front of a list of bytes, high byte first, with the bytes after it. -/
def decodeBytes : List Byte → Except Reject (Instr × List Byte)
  | hi :: lo :: rest => (decode (hi ++ lo)).map fun i => (i, rest)
  | _ => .error .truncated

/-- The bytes of a word as memory holds them: `w[15:8]` at the lower address (R56, R80). -/
def wordBytes (w : Word) : List Byte :=
  [w.extractLsb' 8 8, w.extractLsb' 0 8]

/-- The instruction the decoder reads from the word whose low `nbits` bits are `w` (every bit above them 0), laid out in
bytes as the engine stores it. -/
def decodeTableWord (nbits w : Nat) : Option Instr :=
  match decodeBytes (wordBytes (BitVec.ofNat 16 (w % 2 ^ nbits))) with
  | .ok (i, _) => some i
  | .error _ => none

/-! ## The encoder (R82) -/

/-- Format A: `op`, then the 12-bit literal. -/
def formatA (op : BitVec 4) (nnn : BitVec 12) : Word := op ++ nnn

/-- Formats I and X: `op`, `x`, then the 8-bit literal or sub-opcode. -/
def formatI (op : BitVec 4) (x : Reg) (nn : Byte) : Word := op ++ (BitVec.ofFin x : BitVec 4) ++ nn

/-- Formats R and D: `op`, `x`, `y`, then the sub-opcode or the height. -/
def formatR (op : BitVec 4) (x y : Reg) (n : BitVec 4) : Word :=
  op ++ (BitVec.ofFin x : BitVec 4) ++ (BitVec.ofFin y : BitVec 4) ++ n

/-- The word of an instruction (R81, R82, R84). -/
def encode : Instr → Word
  | .cls => 0x00E0#16
  | .ret => 0x00EE#16
  | .sys nnn => formatA 0x0#4 nnn
  | .jp nnn => formatA 0x1#4 nnn
  | .call nnn => formatA 0x2#4 nnn
  | .seImm x nn => formatI 0x3#4 x nn
  | .sneImm x nn => formatI 0x4#4 x nn
  | .seReg x y => formatR 0x5#4 x y 0x0#4
  | .ldImm x nn => formatI 0x6#4 x nn
  | .addImm x nn => formatI 0x7#4 x nn
  | .ldReg x y => formatR 0x8#4 x y 0x0#4
  | .orReg x y => formatR 0x8#4 x y 0x1#4
  | .andReg x y => formatR 0x8#4 x y 0x2#4
  | .xorReg x y => formatR 0x8#4 x y 0x3#4
  | .addReg x y => formatR 0x8#4 x y 0x4#4
  | .subReg x y => formatR 0x8#4 x y 0x5#4
  | .shr x y => formatR 0x8#4 x y 0x6#4
  | .subn x y => formatR 0x8#4 x y 0x7#4
  | .shl x y => formatR 0x8#4 x y 0xE#4
  | .sneReg x y => formatR 0x9#4 x y 0x0#4
  | .ldI nnn => formatA 0xA#4 nnn
  | .jpV0 nnn => formatA 0xB#4 nnn
  | .rnd x nn => formatI 0xC#4 x nn
  | .drw x y n => formatR 0xD#4 x y n
  | .skp x => formatI 0xE#4 x 0x9E#8
  | .sknp x => formatI 0xE#4 x 0xA1#8
  | .ldVxDT x => formatI 0xF#4 x 0x07#8
  | .ldVxK x => formatI 0xF#4 x 0x0A#8
  | .ldDTVx x => formatI 0xF#4 x 0x15#8
  | .ldSTVx x => formatI 0xF#4 x 0x18#8
  | .addI x => formatI 0xF#4 x 0x1E#8
  | .ldF x => formatI 0xF#4 x 0x29#8
  | .ldB x => formatI 0xF#4 x 0x33#8
  | .ldMemVx x => formatI 0xF#4 x 0x55#8
  | .ldVxMem x => formatI 0xF#4 x 0x65#8

/-! ## The opcode map (R84) -/

/-- The operands of a table entry, read from a word by the entry's format. -/
inductive Operands where
  | none (i : Instr)
  | nnn (i : BitVec 12 → Instr)
  | xnn (i : Reg → Byte → Instr)
  | xy (i : Reg → Reg → Instr)
  | xyn (i : Reg → Reg → BitVec 4 → Instr)
  | x (i : Reg → Instr)

/-- The instruction an entry's operands make of a word (R81). -/
def Operands.read (o : Operands) (w : Word) : Instr :=
  match o with
  | .none i => i
  | .nnn i => i (fieldNNN w)
  | .xnn i => i (fieldX w) (fieldNN w)
  | .xy i => i (fieldX w) (fieldY w)
  | .xyn i => i (fieldX w) (fieldY w) (fieldN w)
  | .x i => i (fieldX w)

/-- A row of R84: a word `w` selects the entry when `w & mask = pattern`. -/
structure OpRow where
  mask : Word
  pattern : Word
  operands : Operands

/-- Entries 1, 2 and 4 to 35 of R84, in the table's order. -/
def contractRows : List OpRow :=
  [⟨0xFFFF, 0x00E0, .none .cls⟩, ⟨0xFFFF, 0x00EE, .none .ret⟩,
   ⟨0xF000, 0x1000, .nnn .jp⟩, ⟨0xF000, 0x2000, .nnn .call⟩,
   ⟨0xF000, 0x3000, .xnn .seImm⟩, ⟨0xF000, 0x4000, .xnn .sneImm⟩,
   ⟨0xF00F, 0x5000, .xy .seReg⟩, ⟨0xF000, 0x6000, .xnn .ldImm⟩, ⟨0xF000, 0x7000, .xnn .addImm⟩] ++
  [⟨0xF00F, 0x8000, .xy .ldReg⟩, ⟨0xF00F, 0x8001, .xy .orReg⟩, ⟨0xF00F, 0x8002, .xy .andReg⟩,
   ⟨0xF00F, 0x8003, .xy .xorReg⟩, ⟨0xF00F, 0x8004, .xy .addReg⟩, ⟨0xF00F, 0x8005, .xy .subReg⟩,
   ⟨0xF00F, 0x8006, .xy .shr⟩, ⟨0xF00F, 0x8007, .xy .subn⟩, ⟨0xF00F, 0x800E, .xy .shl⟩] ++
  [⟨0xF00F, 0x9000, .xy .sneReg⟩, ⟨0xF000, 0xA000, .nnn .ldI⟩, ⟨0xF000, 0xB000, .nnn .jpV0⟩,
   ⟨0xF000, 0xC000, .xnn .rnd⟩, ⟨0xF000, 0xD000, .xyn .drw⟩,
   ⟨0xF0FF, 0xE09E, .x .skp⟩, ⟨0xF0FF, 0xE0A1, .x .sknp⟩] ++
  [⟨0xF0FF, 0xF007, .x .ldVxDT⟩, ⟨0xF0FF, 0xF00A, .x .ldVxK⟩, ⟨0xF0FF, 0xF015, .x .ldDTVx⟩,
   ⟨0xF0FF, 0xF018, .x .ldSTVx⟩, ⟨0xF0FF, 0xF01E, .x .addI⟩, ⟨0xF0FF, 0xF029, .x .ldF⟩,
   ⟨0xF0FF, 0xF033, .x .ldB⟩, ⟨0xF0FF, 0xF055, .x .ldMemVx⟩, ⟨0xF0FF, 0xF065, .x .ldVxMem⟩]

/-- The table in the order in which R85 tests it: entries 1, 2, 4 to 35, then SYS (entry 3) last. -/
def opcodeRows : List OpRow :=
  contractRows ++ [⟨0xF000, 0x0000, .nnn .sys⟩]

/-- The second way of decoding that R85 names: the first row of the table whose mask and pattern the word meets. -/
def decodeByTable (w : Word) : Option Instr :=
  (opcodeRows.find? fun r => w &&& r.mask == r.pattern).map fun r => r.operands.read w

end Sys2Proof
end

