-- ==== Sys2Proof/Machine/System.lean ====
section
/-! DEFINITION. The meaning of SYS (spec 40_cycle R115). -/

namespace Sys2Proof.Machine

/-- SYS nnn (R115, D6): "executes it exactly as rule R114", with the word 0x0nnn; `nnn` is otherwise ignored. -/
def execSys (nnn : BitVec 12) (s : State) : StepResult :=
  .next (s.invalidOpcode (encode (.sys nnn)))

end Sys2Proof.Machine
end

