-- ==== Sys2Proof/Machine/Cycle.lean ====
section
/-! DEFINITION. The events of spec 00_scope R12: the engine's cycle (40_cycle R110 to R118), the timer agent's Tick
(60_exceptions R231), the input host's SetKey (R233), Load (70_reset_and_hazards R261) and Reset; and the output of the
sound timer (R232). -/

namespace Sys2Proof.Machine

/-! ## The engine: Step -/

/-- Fetch (R111): the big-endian word at PC; AddressOutOfRange if PC > 0xFFE. -/
def fetch (s : State) : Except Raise Word := memReadWord s.mem s.pc.toNat

/-- Execute the fetched word (R117): `STATUS' <- RUNNING`, then the instruction, or the report of an invalid word (R114). -/
def executeWord (w : Word) (s : State) : StepResult :=
  match decode w with
  | .ok i => exec i s.startStep
  | .error _ => .next (s.startStep.invalidOpcode w)

/-- One Step (R117). In HALTED it changes nothing and reports nothing (R116). -/
def cycle (s : State) : StepResult :=
  if s.status = .halted then .next s
  else
    match fetch s with
    | .error r => .next (s.startStep.raise r)
    | .ok w => executeWord w s

/-! ## The other agents -/

/-- `tick_delay()` and `tick_sound()`: one less, no-op at zero (R231). -/
def tickTimer (b : Byte) : Byte := if b = 0x00#8 then b else b - 0x01#8

/-- Tick (R231): both timers, and nothing else. -/
def tick (s : State) : State := (s.setDT (tickTimer s.dt)).setST (tickTimer s.st)

/-- SetKey(k, pressed) (R233): one key, and nothing else. -/
def setKey (s : State) (k : Key) (pressed : Bool) : State := { s with key := s.key.set k.val pressed }

/-- Load(image) (R261, R67): the image, byte for byte, from PROG_BASE upward, once and before the first Step; else the model
refuses it (U20, log entry 13). An image that would overflow address 0xFFF is the loader's LoadError (R220). -/
def load (s : State) (image : List Byte) : StepResult :=
  match s.stage with
  | .fresh =>
    match memWriteSpan s.mem progBase image with
    | .ok m => .next { s with mem := m, stage := .loaded }
    | .error _ => .fault .loadError
  | .loaded => .refused .secondLoad
  | .started => .refused .lateLoad

/-- The output `sound_active = (ST != 0)` (R232). -/
def State.soundActive (s : State) : Bool := s.st != 0x00#8

/-! ## The next event -/

/-- One event (R12, R235). -/
def occur (e : Event) (s : State) : StepResult :=
  match e with
  | .step => cycle s
  | .tick => .next (tick s)
  | .setKey k pressed => .next (setKey s k pressed)
  | .reset => .next s.onReset
  | .load image => load s image

/-- The event that comes next (log entry 1): the oldest scheduled one, or Step when none is scheduled. -/
def nextEvent (s : State) : StepResult :=
  match s.schedule with
  | [] => cycle s
  | e :: rest => occur e { s with schedule := rest }

/-! ## Putting an instruction where the next Step fetches it -/

/-- `bytes` at `a`, `a + 1`, ..., those of them that exist. -/
def placeBytes (m : Memory) (a : Nat) : List Byte → Memory
  | [] => m
  | b :: bs => placeBytes (if a < memSize then Memory.write m a b else m) (a + 1) bs

/-- `s` with the word `w` at PC and with the next event a Step that executes: nothing scheduled, not HALTED (log entry
14). -/
def withWordAtPC (s : State) (w : Word) : State :=
  { s with
    mem := placeBytes s.mem s.pc.toNat (wordBytes w)
    schedule := []
    status := if s.status = .halted then .running else s.status
    fault := if s.status = .halted then .none else s.fault }

end Sys2Proof.Machine
end

