-- ==== Sys2Proof/Machine/Step.lean ====
section
/-! DEFINITION. One step of the machine: the next event (Sys2Proof/Machine/Cycle.lean), which is the engine's cycle (spec
40_cycle R117) unless the host's schedule holds another. -/

namespace Sys2Proof.Machine

/-- One step: the next event of R12. -/
def step (s : State) : Host.Outcome State Fault Refusal := nextEvent s

/-- `s` with the instruction whose low `nbits` bits are `w` stored where `step` fetches its next instruction. -/
def State.withFetchWord (s : State) (nbits w : Nat) : State :=
  withWordAtPC s (BitVec.ofNat 16 (w % 2 ^ nbits))

end Sys2Proof.Machine
end

