-- ==== Sys2Proof/Safety.lean ====
section
/-! DEFINITION. The terms in which the claims speak: what holds in every state a run reaches (spec 10_state R35), a failed
run and a parked one (60_exceptions R241), which general registers an instruction may write (10_state R21, R22), how it may
move PC (40_cycle R113), and the pixels a sprite covers (44_display R193). -/

namespace Sys2Proof.Machine

/-! ## States -/

/-- R35 (a) to (c), (e), the canonical form of MEM and the stage of the run: what every state reachable from Reset satisfies. (`SP ≤ 16` is the
type of `sp`.) -/
structure State.Inv (s : State) : Prop where
  /-- MEM is in canonical form (all addresses below 4096, R28). -/
  mem : Memory.wf s.mem
  /-- R24, R35 (c). -/
  pc : s.pc.toNat ≤ 0x10FE
  /-- R35 (b): every valid stack entry is an address some CALL pushed. -/
  stack : ∀ k : Fin 16, k.val < s.sp.val → 2 ≤ (s.stack[k.val]).toNat ∧ (s.stack[k.val]).toNat ≤ 0x1000
  /-- R31, R35 (e). -/
  halted : s.status = .halted ↔ s.fault ≠ .none
  /-- A status other than RUNNING was left by a Step, so no Load is accepted any more (R31, R118, R261). -/
  started : s.status ≠ .running → s.stage = .started

/-- A failed run (R241 (b)): a fatal error was raised. It is never a successful end (R227). -/
abbrev State.Failed (s : State) : Prop := s.status = .halted

/-- A parked state (R241 (a)): RUNNING, no fault, and the word at PC is a jump to itself. -/
structure State.Parked (s : State) : Prop where
  running : s.status = .running
  noFault : s.fault = .none
  inside : s.pc.toNat ≤ 0xFFE
  selfJump : fetch s = .ok (0x1000#16 + s.pc)

/-! ## Instructions -/

/-- R21, R22: may instruction `i` write general register `r`, as its destination or as the flag. -/
def mayWriteReg (i : Instr) (r : Reg) : Bool :=
  match i with
  | .ldImm x _ | .addImm x _ | .ldReg x _ | .orReg x _ | .andReg x _ | .xorReg x _ | .rnd x _ | .ldVxDT x | .ldVxK x => r == x
  | .addReg x _ | .subReg x _ | .subn x _ | .shr x _ | .shl x _ => r == x || r == flagReg
  | .drw _ _ _ => r == flagReg
  | .ldVxMem x => decide (r ≤ x)
  | _ => false

/-- R22: the six instructions that write VF as a flag. -/
def setsFlag (i : Instr) : Bool :=
  match i with
  | .addReg _ _ | .subReg _ _ | .subn _ _ | .shr _ _ | .shl _ _ | .drw _ _ _ => true
  | _ => false

/-- The ways an instruction moves PC (R113). -/
inductive PCUpdate where
  /-- `PC <- PC + 2`. -/
  | advance
  /-- `PC <- PC + 4` or `PC <- PC + 2`. -/
  | skipOrAdvance
  /-- `PC <- target`. -/
  | setDirectly
  /-- LD Vx, K: advance, or hold while no key is pressed. -/
  | advanceOrHold
deriving DecidableEq, Repr

/-- R113, the table: which way each instruction moves PC. -/
def pcUpdate (i : Instr) : PCUpdate :=
  match i with
  | .seImm _ _ | .sneImm _ _ | .seReg _ _ | .sneReg _ _ | .skp _ | .sknp _ => .skipOrAdvance
  | .jp _ | .call _ | .ret | .jpV0 _ => .setDirectly
  | .ldVxK _ => .advanceOrHold
  | _ => .advance

/-- The target of an instruction that sets PC directly (R130, R131, R132, R137), where it has one: RET has none on an empty
stack. -/
def directTarget (i : Instr) (s : State) : Option Word :=
  match i with
  | .jp nnn => some (BitVec.ofNat 16 nnn.toNat)
  | .call nnn => some (BitVec.ofNat 16 nnn.toNat)
  | .jpV0 nnn => some (BitVec.ofNat 16 (nnn.toNat + (s.reg 0).toNat))
  | .ret => if s.sp = 0 then none else s.stack[s.sp.val - 1]?
  | _ => none

/-! ## Sprites -/

/-- Is bit `7 - col` of row `row` of the sprite 1, for a row and a column the sprite has (R193). -/
def spriteBit (bytes : List Byte) (row col : Nat) : Bool :=
  decide (row < bytes.length) && decide (col < 8) && (bytes.getD row 0x00#8).getLsbD (7 - col)

/-- The `n` sprite bytes at MEM[I] to MEM[I+n-1] (R191). -/
def spriteAt (s : State) (n : Nat) : List Byte := (List.range n).map fun k => Memory.read s.mem (s.i.toNat + k)

/-- Does the sprite `bytes` drawn at `(x, y)` cover the pixel `(c, r)` with a 1 bit (R193, R195): the set S of R195 (b). -/
def covers (x y : Byte) (bytes : List Byte) (c r : Nat) : Prop :=
  ∃ row col, spriteBit bytes row col = true ∧ (x.toNat + col) % 64 = c ∧ (y.toNat + row) % 32 = r

/-! ## Runs -/

/-- `n` Ticks (R231). -/
def ticks : Nat → State → State
  | 0, s => s
  | n + 1, s => ticks n (tick s)

end Sys2Proof.Machine
end

