-- ==== Sys2Proof/Certificates/Slice0/Obligations.lean ====
section
/-! DEFINITION. The statements for the provers, from the numbered rules of spec/. Each docstring names the rule and, where the
rule rests on a decision of the spec or the statement on a choice of the model, says so. -/

set_option autoImplicit false

open Sys2Proof Sys2Proof.Machine

/-! ## Encoding (30_encoding) -/

/-- R81, R82, R85 (numbers by decision D4): decoding the word of a well-formed instruction gives it back, all 35 entries,
every operand value. -/
def Obligations.DecodeEncodeAgree : Prop :=
  ∀ i : Instr, WellFormed i → decode (encode i) = .ok i

/-- R85, R87: "every valid word has exactly one meaning": a word that decodes is the word of the instruction it decodes to,
which is well formed. -/
def Obligations.EncodeDecodeAgree : Prop :=
  ∀ (w : Word) (i : Instr), decode w = .ok i → WellFormed i ∧ encode i = w

/-- R85: "With a mask/match table the same result is obtained by testing the entries of rule R84 in the order 1, 2, 4 to 35,
then 3 last", for every word. -/
def Obligations.DecodeMatchesOpcodeTable : Prop :=
  ∀ w : Word, (match decode w with | .ok i => some i | .error _ => none) = decodeByTable w

/-- R85 (c): no word selects two of the entries 1, 2 and 4 to 35 of R84. -/
def Obligations.NoWordSelectsTwoRows : Prop :=
  contractRows.Pairwise fun r q => ∀ w : Word, ¬(w &&& r.mask = r.pattern ∧ w &&& q.mask = q.pattern)

/-- R86 with D5 (SYS apart, which has a table entry): the words the decoder rejects are exactly the listed ones. -/
def Obligations.InvalidWordsExactly : Prop :=
  ∀ w : Word, (∃ e, decode w = .error e) ↔
    (w.toNat / 4096 = 0x5 ∧ w.toNat % 16 ≠ 0) ∨
    (w.toNat / 4096 = 0x8 ∧ w.toNat % 16 ∈ [0x8, 0x9, 0xA, 0xB, 0xC, 0xD, 0xF]) ∨
    (w.toNat / 4096 = 0x9 ∧ w.toNat % 16 ≠ 0) ∨
    (w.toNat / 4096 = 0xE ∧ w.toNat % 256 ∉ [0x9E, 0xA1]) ∨
    (w.toNat / 4096 = 0xF ∧ w.toNat % 256 ∉ [0x07, 0x0A, 0x15, 0x18, 0x1E, 0x29, 0x33, 0x55, 0x65])

/-- R89, the worked encodings: LD V3, 0x2A is 0x632A; ADD V0, V1 is 0x8014; DRW V1, V2, 5 is 0xD125; JP V0, 0x300 is 0xB300;
LD [I], VA is 0xFA55; SKNP VC is 0xECA1; CALL 0x2F0 is 0x22F0. -/
def Obligations.WorkedEncodings : Prop :=
  decode 0x632A#16 = .ok (.ldImm 3 0x2A#8) ∧ decode 0x8014#16 = .ok (.addReg 0 1) ∧
  decode 0xD125#16 = .ok (.drw 1 2 5#4) ∧ decode 0xB300#16 = .ok (.jpV0 0x300#12) ∧
  decode 0xFA55#16 = .ok (.ldMemVx 10) ∧ decode 0xECA1#16 = .ok (.sknp 12) ∧
  decode 0x22F0#16 = .ok (.call 0x2F0#12)

/-! ## The Step and the other events (40_cycle, 60_exceptions, 70_reset_and_hazards)

A state with an empty schedule is one whose next event is a Step (log entry 1, the model's choice). -/

/-- R111, R112, R117: when the two bytes at PC, high byte first, decode to `i`, a Step is `exec i` with STATUS first RUNNING
(and the model's stage started, log entry 13). -/
def Obligations.StepRunsDecodedInstruction : Prop :=
  ∀ (s : State) (i : Instr), s.schedule = [] → s.status ≠ .halted → s.pc.toNat ≤ 0xFFE →
    decode (Memory.read s.mem s.pc.toNat ++ Memory.read s.mem (s.pc.toNat + 1)) = .ok i →
    step s = exec i { s with status := .running, stage := .started }

/-- R114, R225 (report, INVOP: D18): an invalid word is reported with its address, INVOP is set, PC advances by 2, and
nothing else changes (but the model's stage, log entry 13). -/
def Obligations.StepReportsInvalidWord : Prop :=
  ∀ (s : State) (w : Word) (e : Reject), s.schedule = [] → s.status ≠ .halted → s.pc.toNat ≤ 0xFFE →
    w = Memory.read s.mem s.pc.toNat ++ Memory.read s.mem (s.pc.toNat + 1) → decode w = .error e →
    step s = .next { s with
      status := .running, pc := s.pc + 2, invop := true, reports := .invalidOpcode s.pc w :: s.reports
      stage := .started }

/-- R111, R224, R226 (D17, D18, D20): a fetch at PC above 0xFFE is fatal; it reports 0x1000 if PC = 0xFFF, else PC; PC and
everything else stay (but the model's stage, log entry 13). -/
def Obligations.StepFetchFault : Prop :=
  ∀ s : State, s.schedule = [] → s.status ≠ .halted → 0xFFE < s.pc.toNat →
    step s = .next { s with
      status := .halted, fault := .addressOutOfRange, stage := .started,
      reports := .fatal (.addressOutOfRange (if s.pc = 0xFFF#16 then 0x1000 else s.pc.toNat)) :: s.reports }

/-- R116, R227 (D19): HALTED is absorbing: any number of Steps changes nothing at all and reports nothing. -/
def Obligations.HaltedIsAbsorbing : Prop :=
  ∀ (n : Nat) (s : State), s.schedule = [] → s.status = .halted → Sys2Proof.core.run n s = .next s

/-- R12, R235, log entry 1 (the model's own schedule): the oldest scheduled event comes next and leaves the schedule; and
with none scheduled a Step comes. -/
def Obligations.ScheduledEventComesNext : Prop :=
  ∀ s : State,
    (s.schedule = [] → step s = cycle s) ∧
    ∀ (e : Event) (rest : List Event), s.schedule = e :: rest → step s = occur e { s with schedule := rest }

/-- R220, R226, R261 and the model's log entries 12 and 13: a step of the machine stops only on a scheduled Load: of an
image over 3584 bytes, or after another Load, or after a Step. No instruction stops it. -/
def Obligations.StepStopsOnlyOnLoad : Prop :=
  ∀ s : State, (∃ t, step s = .next t) ∨ ∃ image rest, s.schedule = .load image :: rest ∧
    ((step s = .fault .loadError ∧ s.stage = .fresh ∧ 3584 < image.length) ∨
     (step s = .refused .secondLoad ∧ s.stage = .loaded) ∨ (step s = .refused .lateLoad ∧ s.stage = .started))

/-- R33, R260, R227 (zeros by D14, glyphs by D2 and D3, STATUS, FAULT, INVOP by D18): Reset gives every element of R20 its
reset value from any state, HALTED included, and State.reset has these values; and an image may be loaded (the model's
stage, log entry 13). -/
def Obligations.ResetGivesResetValues : Prop :=
  ∀ s : State, ∃ t, occur .reset s = .next t ∧ ∀ u ∈ [t, State.reset],
    u.pc = 0x0200#16 ∧ u.sp = 0 ∧ u.i = 0 ∧ u.dt = 0 ∧ u.st = 0 ∧
    u.status = .running ∧ u.fault = .none ∧ u.invop = false ∧ u.stage = .fresh ∧
    (∀ r : Reg, u.reg r = 0) ∧ (∀ k : Key, isPressed u k = false) ∧ (∀ x y, u.pixelAt x y = false) ∧
    (∀ k : Fin 16, u.stack[k.val] = 0) ∧
    (∀ k, k < 80 → Memory.read u.mem (params.glyphBase + k) = params.glyphTable.getD k 0) ∧
    (∀ a, (a < params.glyphBase ∨ params.glyphBase + 80 ≤ a) → Memory.read u.mem a = 0)

/-- R26, R27, R231: `n` Ticks take `n` from each timer, stopping at zero, and change nothing else; one Tick is the event. -/
def Obligations.TicksSaturate : Prop :=
  (∀ s : State, occur .tick s = .next (ticks 1 s)) ∧
  ∀ (n : Nat) (s : State), ticks n s =
    { s with dt := BitVec.ofNat 8 (s.dt.toNat - n), st := BitVec.ofNat 8 (s.st.toNat - n) }

/-- R233: SetKey(k, b) sets KEY[k] and changes nothing else. -/
def Obligations.SetKeyWritesOneKey : Prop :=
  ∀ (k : Key) (b : Bool) (s : State), ∃ t, occur (.setKey k b) s = .next t ∧
    isPressed t k = b ∧ (∀ j, j ≠ k → isPressed t j = isPressed s j) ∧ t = { s with key := t.key }

/-- R67, R261, R220, R28: the first Load before the first Step writes an image of at most 3584 bytes byte for byte from 0x200
and nothing else (but the model's stage, log entry 13); a larger one is LoadError, and the machine stops; any other Load is
refused (U20; a second one: log entry 13). (MEM in canonical form, an invariant of the model: StepKeepsInv.) -/
def Obligations.LoadPlacesImage : Prop :=
  ∀ (image : List Byte) (s : State), Memory.wf s.mem →
    (s.stage = .started → occur (.load image) s = .refused .lateLoad) ∧
    (s.stage = .loaded → occur (.load image) s = .refused .secondLoad) ∧
    (s.stage = .fresh → 3584 < image.length → occur (.load image) s = .fault .loadError) ∧
    (s.stage = .fresh → image.length ≤ 3584 → ∃ t, occur (.load image) s = .next t ∧
      t = { s with mem := t.mem, stage := .loaded } ∧
      (∀ k, k < image.length → image[k]? = some (Memory.read t.mem (0x200 + k))) ∧
      (∀ a, (a < 0x200 ∨ 0x200 + image.length ≤ a) → Memory.read t.mem a = Memory.read s.mem a))

/-! ## Invariants and whole-machine rules -/

/-- Every instruction, in every state, answers a next state (R117, R226: a fatal error is one too; log entry 12). -/
def Obligations.ExecAlwaysAnswers : Prop :=
  ∀ (i : Instr) (s : State), ∃ t, exec i s = .next t

/-- R35 (a) to (c), (e), R24, R25, R31, R261 and the canonical form of MEM: every step, whatever event it is, keeps the
invariant. -/
def Obligations.StepKeepsInv : Prop :=
  ∀ s t : State, s.Inv → step s = .next t → t.Inv

/-- The invariant holds after reset (R33). -/
def Obligations.ResetHasInv : Prop :=
  State.reset.Inv

/-- R35 (f), R31, R227: until Reset, a fault stays recorded, the engine stays HALTED and INVOP stays set. -/
def Obligations.ErrorRecordsAreSticky : Prop :=
  ∀ s t : State, s.Inv → step s = .next t → (∀ rest, s.schedule ≠ .reset :: rest) →
    (s.fault ≠ .none → t.fault = s.fault) ∧ (s.status = .halted → t.status = .halted) ∧
    (s.invop = true → t.invop = true)

/-- R34: a Step writes MEM only by LD B and LD [I], FB only by CLS and DRW, DT and ST only by their load instructions, KEY
never; Tick writes DT and ST only; SetKey writes KEY only; Load writes MEM from 0x200 upward only (and the model's stage, log
entry 13). R28, R61 (d), R261: once a Step has run (the stage says so, until Reset), MEM is written by Step and Reset only. -/
def Obligations.OwnershipOfWrites : Prop :=
  (∀ s t : State, cycle s = .next t →
    t.key = s.key ∧
    ((∀ w x, fetch s = .ok w → decode w ≠ .ok (.ldB x) ∧ decode w ≠ .ok (.ldMemVx x)) →
      ∀ a, Memory.read t.mem a = Memory.read s.mem a) ∧
    ((∀ w x y n, fetch s = .ok w → decode w ≠ .ok .cls ∧ decode w ≠ .ok (.drw x y n)) → t.fb = s.fb) ∧
    ((∀ w x, fetch s = .ok w → decode w ≠ .ok (.ldDTVx x)) → t.dt = s.dt) ∧
    ((∀ w x, fetch s = .ok w → decode w ≠ .ok (.ldSTVx x)) → t.st = s.st)) ∧
  (∀ s t : State, occur .tick s = .next t → t = { s with dt := t.dt, st := t.st }) ∧
  (∀ (k : Key) (b : Bool) (s t : State), occur (.setKey k b) s = .next t → t = { s with key := t.key }) ∧
  (∀ (image : List Byte) (s t : State), occur (.load image) s = .next t →
    t = { s with mem := t.mem, stage := t.stage } ∧ ∀ a, a < 0x200 → Memory.read t.mem a = Memory.read s.mem a) ∧
  (∀ s t : State, cycle s = .next t → s.status ≠ .halted → t.stage = .started) ∧
  (∀ (e : Event) (s t : State), occur e s = .next t → s.stage = .started → e ≠ .reset →
    t.stage = .started ∧ (e ≠ .step → t.mem = s.mem))

/-- R113: a Step that is not HALTED moves PC exactly once: held on a fatal error, + 2 for an invalid word, else as the table
of R113 says for the instruction. -/
def Obligations.PCMovesOnce : Prop :=
  ∀ s t : State, s.status ≠ .halted → cycle s = .next t →
    (t.status = .halted → t.pc = s.pc) ∧
    (t.status ≠ .halted → ∃ w, fetch s = .ok w ∧
      match decode w with
      | .error _ => t.pc.toNat = s.pc.toNat + 2
      | .ok i =>
        match pcUpdate i with
        | .advance => t.pc.toNat = s.pc.toNat + 2
        | .skipOrAdvance => t.pc.toNat = s.pc.toNat + 2 ∨ t.pc.toNat = s.pc.toNat + 4
        | .setDirectly => directTarget i s = some t.pc
        | .advanceOrHold => if ∃ k, isPressed s k = true then t.pc.toNat = s.pc.toNat + 2 else t.pc = s.pc)

/-- R22 (values 1 and 0: D11): each of the six flag-setting instructions leaves 0 or 1 in VF whenever it completes. -/
def Obligations.FlagIsZeroOrOne : Prop :=
  ∀ (i : Instr) (s t : State), setsFlag i = true → exec i s = .next t → s.status ≠ .halted → t.status ≠ .halted →
    t.reg 15 = 0 ∨ t.reg 15 = 1

/-! ## Frames -/

/-- R21, R22 (D10): an instruction leaves every general register alone that it may not write as its destination or flag. -/
def Obligations.RegisterFrame : Prop :=
  ∀ (i : Instr) (s t : State) (r : Reg), exec i s = .next t → mayWriteReg i r = false → t.reg r = s.reg r

/-- R34, R58, R66, R177: an instruction that stores nothing leaves every byte of memory as it was; LD B leaves every byte
outside the three at I, and LD [I], Vx every byte outside the x + 1 at I, also when it faults. -/
def Obligations.MemoryFrame : Prop :=
  ∀ (i : Instr) (s t : State), exec i s = .next t →
    match i with
    | .ldB _ => ∀ a, (a < s.i.toNat ∨ s.i.toNat + 3 ≤ a) → Memory.read t.mem a = Memory.read s.mem a
    | .ldMemVx x => ∀ a, (a < s.i.toNat ∨ s.i.toNat + (x.val + 1) ≤ a) → Memory.read t.mem a = Memory.read s.mem a
    | _ => ∀ a, Memory.read t.mem a = Memory.read s.mem a

/-- R20 to R31, R34: which instructions may change I, SP and STACK, DT, ST, FB, STATUS, FAULT and INVOP (D8 for LD [I] and
LD Vx, [I], D18 for the status elements); none changes KEY; and of the model's own fields only RND draws, only SYS and a fatal
error report, none touches the schedule or the stage. -/
def Obligations.SpecialStateFrame : Prop :=
  ∀ (i : Instr) (s t : State), exec i s = .next t →
    t.key = s.key ∧ t.schedule = s.schedule ∧ t.stage = s.stage ∧
    ((∀ nnn x, i ≠ .ldI nnn ∧ i ≠ .addI x ∧ i ≠ .ldF x) → t.i = s.i) ∧
    ((∀ nnn, i ≠ .call nnn ∧ i ≠ .ret) → t.sp = s.sp ∧ t.stack = s.stack) ∧
    ((∀ x, i ≠ .ldDTVx x) → t.dt = s.dt) ∧ ((∀ x, i ≠ .ldSTVx x) → t.st = s.st) ∧
    ((∀ x y n, i ≠ .cls ∧ i ≠ .drw x y n) → t.fb = s.fb) ∧
    ((∀ nnn, i ≠ .sys nnn) → t.invop = s.invop) ∧ ((∀ x nn, i ≠ .rnd x nn) → t.draws = s.draws) ∧
    ((∀ nnn x y n, i ≠ .call nnn ∧ i ≠ .ret ∧ i ≠ .drw x y n ∧ i ≠ .ldB x ∧ i ≠ .ldMemVx x ∧ i ≠ .ldVxMem x) →
      t.fault = s.fault ∧ ((∀ x, i ≠ .ldVxK x) → t.status = s.status) ∧
      ((∀ nnn, i ≠ .sys nnn) → t.reports = s.reports))

/-! ## Control transfer (41_flow, 40_cycle) -/

/-- R130 (SP as a count: D15): with a stack that is not empty RET goes to the top entry and takes it off; nothing else
changes, the entry's bits included. -/
def Obligations.ReturnPopsStack : Prop :=
  ∀ s : State, 0 < s.sp.val → ∃ t, exec .ret s = .next t ∧
    s.stack[s.sp.val - 1]? = some t.pc ∧ t.sp.val + 1 = s.sp.val ∧ t = { s with pc := t.pc, sp := t.sp }

/-- R131: JP nnn sets PC to the literal and changes nothing else. -/
def Obligations.JumpSetsPC : Prop :=
  ∀ (nnn : BitVec 12) (s : State), ∃ t, exec (.jp nnn) s = .next t ∧
    t.pc.toNat = nnn.toNat ∧ t = { s with pc := t.pc }

/-- R132 (SP as a count: D15): with fewer than 16 entries CALL nnn pushes PC + 2 and goes to nnn; every other entry and all
else is unchanged. -/
def Obligations.CallPushes : Prop :=
  ∀ (nnn : BitVec 12) (s : State), s.sp.val < 16 → ∃ t, exec (.call nnn) s = .next t ∧
    t.stack[s.sp.val]? = some (s.pc + 2#16) ∧ (∀ k, k ≠ s.sp.val → t.stack[k]? = s.stack[k]?) ∧
    t.sp.val = s.sp.val + 1 ∧ t.pc.toNat = nnn.toNat ∧ t = { s with stack := t.stack, sp := t.sp, pc := t.pc }

/-- R222, R223, R226 (D17, D18): CALL on a full stack and RET on an empty one are fatal; FAULT, STATUS and the report are all
that changes. -/
def Obligations.StackFaults : Prop :=
  (∀ (nnn : BitVec 12) (s : State), s.sp = 16 → exec (.call nnn) s = .next { s with
    fault := .stackOverflow, status := .halted, reports := .fatal .stackOverflow :: s.reports }) ∧
  (∀ s : State, s.sp = 0 → exec .ret s = .next { s with
    fault := .stackUnderflow, status := .halted, reports := .fatal .stackUnderflow :: s.reports })

/-- Section 8 of the source, 41_flow R130: "Call then Return restores the program counter to exactly the address immediately
following the original Call instruction", and the stack pointer. -/
def Obligations.CallThenReturn : Prop :=
  ∀ (nnn : BitVec 12) (s : State), s.sp.val < 16 → ∃ t u, exec (.call nnn) s = .next t ∧ exec .ret t = .next u ∧
    u.pc = s.pc + 2#16 ∧ u.sp = s.sp

/-- R133, R134: SE Vx, nn skips if V[x] = nn, SNE Vx, nn if not; else they advance; nothing else changes. -/
def Obligations.SkipOnLiteral : Prop :=
  ∀ (x : Reg) (nn : Byte) (s : State),
    exec (.seImm x nn) s = .next { s with pc := if s.reg x = nn then s.pc + 4 else s.pc + 2 } ∧
    exec (.sneImm x nn) s = .next { s with pc := if s.reg x ≠ nn then s.pc + 4 else s.pc + 2 }

/-- R135, R136: SE Vx, Vy skips if V[x] = V[y], SNE Vx, Vy if not; else they advance; nothing else changes. -/
def Obligations.SkipOnRegister : Prop :=
  ∀ (x y : Reg) (s : State),
    exec (.seReg x y) s = .next { s with pc := if s.reg x = s.reg y then s.pc + 4 else s.pc + 2 } ∧
    exec (.sneReg x y) s = .next { s with pc := if s.reg x ≠ s.reg y then s.pc + 4 else s.pc + 2 }

/-- R137 (not masked: D20): JP V0, nnn goes to nnn + V[0], at most 0x10FE, and changes nothing else. -/
def Obligations.JumpWithOffset : Prop :=
  ∀ (nnn : BitVec 12) (s : State), ∃ t, exec (.jpV0 nnn) s = .next t ∧
    t.pc.toNat = nnn.toNat + (s.reg 0).toNat ∧ t.pc.toNat ≤ 0x10FE ∧ t = { s with pc := t.pc }

/-- R115 (D6): SYS nnn is reported as an invalid word, with the word 0x0nnn, sets INVOP and advances; nothing else changes. -/
def Obligations.SysReportsInvalid : Prop :=
  ∀ (nnn : BitVec 12) (s : State), ∃ w : Word, w.toNat = nnn.toNat ∧
    exec (.sys nnn) s = .next { s with
      pc := s.pc + 2, invop := true, reports := .invalidOpcode s.pc w :: s.reports }

/-- R241 (a) (the definition is the spec's decision D24): a parked state stays as it is for ever, as long as no other event
comes; only the model's stage then says that a Step has run (log entry 13). -/
def Obligations.ParkedStays : Prop :=
  ∀ (n : Nat) (s : State), s.schedule = [] → s.Parked →
    Sys2Proof.core.run (n + 1) s = .next { s with stage := .started }

/-! ## Registers and ALU (42_alu) -/

/-- R150: LD Vx, nn writes the literal to V[x] (VF too, as a destination), and advances. -/
def Obligations.LoadLiteral : Prop :=
  ∀ (x : Reg) (nn : Byte) (s : State), ∃ t, exec (.ldImm x nn) s = .next t ∧
    t.reg x = nn ∧ (∀ r, r ≠ x → t.reg r = s.reg r) ∧ t = { s with v := t.v, pc := s.pc + 2 }

/-- R151: ADD Vx, nn adds modulo 256 and sets no flag: for x ≠ 15 VF is unchanged. -/
def Obligations.AddLiteral : Prop :=
  ∀ (x : Reg) (nn : Byte) (s : State), ∃ t, exec (.addImm x nn) s = .next t ∧
    (t.reg x).toNat = ((s.reg x).toNat + nn.toNat) % 256 ∧ (∀ r, r ≠ x → t.reg r = s.reg r) ∧
    t = { s with v := t.v, pc := s.pc + 2 }

/-- R152 (VF not written as a flag: D10): LD Vx, Vy copies. -/
def Obligations.CopyRegister : Prop :=
  ∀ (x y : Reg) (s : State), ∃ t, exec (.ldReg x y) s = .next t ∧
    t.reg x = s.reg y ∧ (∀ r, r ≠ x → t.reg r = s.reg r) ∧ t = { s with v := t.v, pc := s.pc + 2 }

/-- R153, R154, R155 (VF not written as a flag: D10, LOGIC_WRITES_VF false): OR, AND, XOR, bit by bit. -/
def Obligations.BitwiseLogic : Prop :=
  ∀ (x y : Reg) (s : State), ∃ t u w,
    exec (.orReg x y) s = .next t ∧ exec (.andReg x y) s = .next u ∧ exec (.xorReg x y) s = .next w ∧
    (∀ b, b < 8 →
      (t.reg x).getLsbD b = ((s.reg x).getLsbD b || (s.reg y).getLsbD b) ∧
      (u.reg x).getLsbD b = ((s.reg x).getLsbD b && (s.reg y).getLsbD b) ∧
      (w.reg x).getLsbD b = ((s.reg x).getLsbD b ^^ (s.reg y).getLsbD b)) ∧
    (∀ r, r ≠ x → t.reg r = s.reg r ∧ u.reg r = s.reg r ∧ w.reg r = s.reg r) ∧
    t = { s with v := t.v, pc := s.pc + 2 } ∧ u = { s with v := u.v, pc := s.pc + 2 } ∧
    w = { s with v := w.v, pc := s.pc + 2 }

/-- R156, R163 (the flag is written last: D9): ADD Vx, Vy writes the sum modulo 256 and the carry; for x = 15 the carry
remains. -/
def Obligations.AddSetsCarry : Prop :=
  ∀ (x y : Reg) (s : State), ∃ t, exec (.addReg x y) s = .next t ∧
    (x ≠ 15 → (t.reg x).toNat = ((s.reg x).toNat + (s.reg y).toNat) % 256) ∧
    t.reg 15 = (if (s.reg x).toNat + (s.reg y).toNat > 255 then 1 else 0) ∧
    (∀ r, r ≠ x → r ≠ 15 → t.reg r = s.reg r) ∧ t = { s with v := t.v, pc := s.pc + 2 }

/-- R157, R159, R163 (the flag is written last: D9): SUB writes V[x] - V[y] and SUBN V[y] - V[x], modulo 256, to V[x], and VF
is 1 iff the minuend is at least the subtrahend; for x = 15 the flag remains. -/
def Obligations.SubtractSetsNotBorrow : Prop :=
  ∀ (x y : Reg) (s : State), ∃ t u, exec (.subReg x y) s = .next t ∧ exec (.subn x y) s = .next u ∧
    (x ≠ 15 → ((t.reg x).toNat : Int) = (((s.reg x).toNat : Int) - (s.reg y).toNat) % 256) ∧
    t.reg 15 = (if (s.reg x).toNat ≥ (s.reg y).toNat then 1 else 0) ∧
    (x ≠ 15 → ((u.reg x).toNat : Int) = (((s.reg y).toNat : Int) - (s.reg x).toNat) % 256) ∧
    u.reg 15 = (if (s.reg y).toNat ≥ (s.reg x).toNat then 1 else 0) ∧
    (∀ r, r ≠ x → r ≠ 15 → t.reg r = s.reg r ∧ u.reg r = s.reg r) ∧
    t = { s with v := t.v, pc := s.pc + 2 } ∧ u = { s with v := u.v, pc := s.pc + 2 }

/-- R158, R160, R163 (V[x] is shifted, V[y] ignored: D7; flag last: D9): SHR halves and SHL doubles V[x] modulo 256; VF is
the bit shifted out, the old bit 0 or bit 7. -/
def Obligations.ShiftsSetBitOut : Prop :=
  ∀ (x y : Reg) (s : State), ∃ t u, exec (.shr x y) s = .next t ∧ exec (.shl x y) s = .next u ∧
    (x ≠ 15 → (t.reg x).toNat = (s.reg x).toNat / 2 ∧ (u.reg x).toNat = 2 * (s.reg x).toNat % 256) ∧
    (t.reg 15).toNat = (s.reg x).toNat % 2 ∧ (u.reg 15).toNat = (s.reg x).toNat / 128 ∧
    (∀ r, r ≠ x → r ≠ 15 → t.reg r = s.reg r ∧ u.reg r = s.reg r) ∧
    t = { s with v := t.v, pc := s.pc + 2 } ∧ u = { s with v := u.v, pc := s.pc + 2 }

/-- R161, R239 (a free draw: D22; log entry 2): RND Vx, nn writes a drawn byte AND nn; no bit outside nn is set; the draw is
taken; nothing else changes. It holds whatever byte is drawn. -/
def Obligations.RandomByteMasked : Prop :=
  ∀ (x : Reg) (nn : Byte) (s : State), ∃ t, exec (.rnd x nn) s = .next t ∧
    t.reg x = Config.freeByte s.draws &&& nn ∧ t.reg x &&& ~~~nn = 0 ∧ (∀ r, r ≠ x → t.reg r = s.reg r) ∧
    t = { s with v := t.v, pc := s.pc + 2, draws := s.draws + 1 }

/-! ## Index register and memory (43_index_memory) -/

/-- R170: LD I, nnn. -/
def Obligations.LoadIndexLiteral : Prop :=
  ∀ (nnn : BitVec 12) (s : State), ∃ t, exec (.ldI nnn) s = .next t ∧
    t.i.toNat = nnn.toNat ∧ t = { s with i := t.i, pc := s.pc + 2 }

/-- R171 (not masked to 12 bits: D20): ADD I, Vx adds modulo 65536 and writes no flag. -/
def Obligations.AddToIndex : Prop :=
  ∀ (x : Reg) (s : State), ∃ t, exec (.addI x) s = .next t ∧
    t.i.toNat = (s.i.toNat + (s.reg x).toNat) % 65536 ∧ t = { s with i := t.i, pc := s.pc + 2 }

/-- R172 (GLYPH_BASE: D2): LD F, Vx points I at the glyph of the low 4 bits of V[x], inside the reserved region. -/
def Obligations.GlyphAddressInIndex : Prop :=
  ∀ (x : Reg) (s : State), ∃ t, exec (.ldF x) s = .next t ∧
    t.i.toNat = params.glyphBase + 5 * ((s.reg x).toNat % 16) ∧ t.i.toNat + 5 ≤ 0x200 ∧
    t = { s with i := t.i, pc := s.pc + 2 }

/-- R173 (bounds of the whole access: D17): with I + 2 ≤ 4095 LD B, Vx stores hundreds, tens and ones at I, I + 1, I + 2.
(MEM in canonical form, an invariant of the model: StepKeepsInv.) -/
def Obligations.StoreDecimalDigits : Prop :=
  ∀ (x : Reg) (s : State), Memory.wf s.mem → s.i.toNat + 2 ≤ 4095 → ∃ t, exec (.ldB x) s = .next t ∧
    (Memory.read t.mem s.i.toNat).toNat = (s.reg x).toNat / 100 ∧
    (Memory.read t.mem (s.i.toNat + 1)).toNat = (s.reg x).toNat / 10 % 10 ∧
    (Memory.read t.mem (s.i.toNat + 2)).toNat = (s.reg x).toNat % 10 ∧
    (∀ a, (a < s.i.toNat ∨ s.i.toNat + 3 ≤ a) → Memory.read t.mem a = Memory.read s.mem a) ∧
    t = { s with mem := t.mem, pc := s.pc + 2 }

/-- R174 (I unchanged: D8; bounds: D17): with I + x ≤ 4095 LD [I], Vx stores V[0] to V[x] at I to I + x. (MEM in canonical
form, an invariant of the model: StepKeepsInv.) -/
def Obligations.DumpRegisters : Prop :=
  ∀ (x : Reg) (s : State), Memory.wf s.mem → s.i.toNat + x.val ≤ 4095 → ∃ t, exec (.ldMemVx x) s = .next t ∧
    (∀ k : Reg, k ≤ x → Memory.read t.mem (s.i.toNat + k.val) = s.reg k) ∧
    (∀ a, (a < s.i.toNat ∨ s.i.toNat + (x.val + 1) ≤ a) → Memory.read t.mem a = Memory.read s.mem a) ∧
    t = { s with mem := t.mem, pc := s.pc + 2 }

/-- R175 (I unchanged: D8; bounds: D17): with I + x ≤ 4095 LD Vx, [I] loads V[0] to V[x] from I to I + x; the registers above
x are unchanged. -/
def Obligations.LoadRegisters : Prop :=
  ∀ (x : Reg) (s : State), s.i.toNat + x.val ≤ 4095 → ∃ t, exec (.ldVxMem x) s = .next t ∧
    (∀ k : Reg, k ≤ x → t.reg k = Memory.read s.mem (s.i.toNat + k.val)) ∧
    (∀ k : Reg, x < k → t.reg k = s.reg k) ∧ t = { s with v := t.v, pc := s.pc + 2 }

/-- R224, R66, R226 (D17, D18, D20): DRW, LD B, LD [I], Vx and LD Vx, [I] are fatal exactly at the sites of R224, report
max(I, 4096), and change nothing but FAULT, STATUS and the report. -/
def Obligations.AddressFaults : Prop :=
  ∀ (i : Instr) (s : State),
    (match i with
      | .drw _ _ n => 1 ≤ n.toNat ∧ s.i.toNat + n.toNat - 1 > 4095
      | .ldB _ => s.i.toNat + 2 > 4095
      | .ldMemVx x => s.i.toNat + x.val > 4095
      | .ldVxMem x => s.i.toNat + x.val > 4095
      | _ => False) →
    exec i s = .next { s with
      fault := .addressOutOfRange, status := .halted,
      reports := .fatal (.addressOutOfRange (max s.i.toNat 4096)) :: s.reports }

/-- R175: "A dump followed by a load with the same x and I restores V[0..x]", whatever the registers hold in between.
(MEM in canonical form, an invariant of the model: StepKeepsInv.) -/
def Obligations.DumpThenLoadRestores : Prop :=
  ∀ (x : Reg) (s t : State) (v : RegFile), Memory.wf s.mem → s.i.toNat + x.val ≤ 4095 → exec (.ldMemVx x) s = .next t →
    ∃ u, exec (.ldVxMem x) { t with v := v } = .next u ∧ ∀ k : Reg, k ≤ x → u.reg k = s.reg k

/-- R64, R265: a store is seen by every later fetch: after LD [I], Vx the word fetched at the address of two dumped bytes is
these bytes, high byte first. (MEM in canonical form, an invariant of the model: StepKeepsInv.) -/
def Obligations.StoreSeenByFetch : Prop :=
  ∀ (x k l : Reg) (s t u : State), Memory.wf s.mem → s.i.toNat + x.val ≤ 4095 → exec (.ldMemVx x) s = .next t →
    l.val = k.val + 1 → l ≤ x → u.mem = t.mem → u.pc.toNat = s.i.toNat + k.val →
    fetch u = .ok (s.reg k ++ s.reg l)

/-! ## Framebuffer (44_display) -/

/-- R190, R192: CLS makes `pixel_at` false for every coordinate, advances, and changes nothing else. -/
def Obligations.ClearScreen : Prop :=
  ∀ s : State, ∃ t, exec .cls s = .next t ∧ (∀ x y, t.pixelAt x y = false) ∧ t = { s with fb := t.fb, pc := s.pc + 2 }

/-- R191, R193, R195 (c) (bit order: D12; flag values: D11; bounds: D17; coordinates before the flag: D9): DRW Vx, Vy, n flips
exactly the pixels its sprite covers, wrapping, and VF is 1 iff one of them was set; with n = 0 it never faults. -/
def Obligations.DrawXorsSprite : Prop :=
  ∀ (x y : Reg) (n : BitVec 4) (s : State), (n = 0 ∨ s.i.toNat + n.toNat - 1 ≤ 4095) →
    ∃ t, exec (.drw x y n) s = .next t ∧
      (∀ c r, c < 64 → r < 32 →
        (t.pixelAt c r = s.pixelAt c r ↔ ¬covers (s.reg x) (s.reg y) (spriteAt s n.toNat) c r)) ∧
      (t.reg 15 = 1 ↔ ∃ c r, covers (s.reg x) (s.reg y) (spriteAt s n.toNat) c r ∧ s.pixelAt c r = true) ∧
      (t.reg 15 = 0 ∨ t.reg 15 = 1) ∧ (∀ r, r ≠ 15 → t.reg r = s.reg r) ∧
      t = { s with fb := t.fb, v := t.v, pc := s.pc + 2 }

/-- R195 (b), C3: two DRW with the same coordinates, I and sprite bytes restore FB, whatever it held, and the second leaves
VF = 1 iff the sprite covers some pixel that was not set before the first. (x, y ≠ 15: with VF as a coordinate the first draw
changes it.) -/
def Obligations.DrawTwiceRestores : Prop :=
  ∀ (x y : Reg) (n : BitVec 4) (s : State), x ≠ 15 → y ≠ 15 → (n = 0 ∨ s.i.toNat + n.toNat - 1 ≤ 4095) →
    ∃ t u, exec (.drw x y n) s = .next t ∧ exec (.drw x y n) t = .next u ∧ u.fb = s.fb ∧
      (u.reg 15 = 1 ↔ ∃ c r, covers (s.reg x) (s.reg y) (spriteAt s n.toNat) c r ∧ s.pixelAt c r = false)

/-! ## Keys and timers (45_keys_timers) -/

/-- R200, R201: SKP Vx skips if the key of the low 4 bits of V[x] is pressed, SKNP Vx if it is not; else they advance; nothing
else changes. -/
def Obligations.SkipOnKey : Prop :=
  ∀ (x : Reg) (k : Key) (s : State), k.val = (s.reg x).toNat % 16 →
    exec (.skp x) s = .next { s with pc := if isPressed s k = true then s.pc + 4 else s.pc + 2 } ∧
    exec (.sknp x) s = .next { s with pc := if isPressed s k = true then s.pc + 2 else s.pc + 4 }

/-- R202, R206 (lowest pressed key: D13; STATUS: D26; level, not edge: D29): LD Vx, K with no key pressed changes nothing but
STATUS; else it stores the lowest pressed index in V[x] and advances. -/
def Obligations.KeyWaitStoresLowestKey : Prop :=
  ∀ (x : Reg) (s : State),
    ((∀ k, isPressed s k = false) → exec (.ldVxK x) s = .next { s with status := .awaitingKey }) ∧
    (∀ k : Key, isPressed s k = true → (∀ j, j < k → isPressed s j = false) →
      ∃ t, exec (.ldVxK x) s = .next t ∧ (t.reg x).toNat = k.val ∧ (∀ r, r ≠ x → t.reg r = s.reg r) ∧
        t = { s with v := t.v, pc := s.pc + 2 })

/-- R202, section 8 of the source: "Key-wait instruction leaves the program counter unchanged across repeated cycles while no
key is pressed": any number of Steps changes STATUS only (and the model's stage, log entry 13). -/
def Obligations.KeyWaitRepeats : Prop :=
  ∀ (n : Nat) (x : Reg) (w : Word) (s : State), s.schedule = [] → s.status ≠ .halted → fetch s = .ok w →
    decode w = .ok (.ldVxK x) → (∀ k, isPressed s k = false) →
    Sys2Proof.core.run (n + 1) s = .next { s with status := .awaitingKey, stage := .started }

/-- R203, R204, R205: LD Vx, DT, LD DT, Vx and LD ST, Vx copy one register and advance. -/
def Obligations.TimerMoves : Prop :=
  ∀ (x : Reg) (s : State),
    (∃ t, exec (.ldVxDT x) s = .next t ∧ t.reg x = s.dt ∧ (∀ r, r ≠ x → t.reg r = s.reg r) ∧
      t = { s with v := t.v, pc := s.pc + 2 }) ∧
    exec (.ldDTVx x) s = .next { s with dt := s.reg x, pc := s.pc + 2 } ∧
    exec (.ldSTVx x) s = .next { s with st := s.reg x, pc := s.pc + 2 }
end

