-- ==== Sys2Proof/Laws/Encoding.lean ====
section
/-! SUPPORT. The fields of a word and the formats of the encoder as numbers (spec 30_encoding R81, R82), and each field of
each format read back. -/

namespace Sys2Proof

/-! ## Fields of a word -/

@[simp] theorem fieldOp_toNat (w : Word) : (fieldOp w).toNat = w.toNat / 4096 := by
  simp [fieldOp, BitVec.extractLsb'_toNat, Nat.shiftRight_eq_div_pow]
  omega

@[simp] theorem fieldX_val (w : Word) : (fieldX w).val = w.toNat / 256 % 16 := by
  simp [fieldX, Nat.shiftRight_eq_div_pow]

@[simp] theorem fieldY_val (w : Word) : (fieldY w).val = w.toNat / 16 % 16 := by
  simp [fieldY, Nat.shiftRight_eq_div_pow]

@[simp] theorem fieldN_toNat (w : Word) : (fieldN w).toNat = w.toNat % 16 := by
  simp [fieldN, BitVec.extractLsb'_toNat]

@[simp] theorem fieldNN_toNat (w : Word) : (fieldNN w).toNat = w.toNat % 256 := by
  simp [fieldNN, BitVec.extractLsb'_toNat]

@[simp] theorem fieldNNN_toNat (w : Word) : (fieldNNN w).toNat = w.toNat % 4096 := by
  simp [fieldNNN, BitVec.extractLsb'_toNat]

/-! ## Formats -/

theorem formatA_toNat (op : BitVec 4) (nnn : BitVec 12) :
    (formatA op nnn).toNat = op.toNat * 4096 + nnn.toNat := by
  rw [formatA, BitVec.toNat_append, ← Nat.shiftLeft_add_eq_or_of_lt nnn.isLt]
  simp [Nat.shiftLeft_eq]

theorem formatI_toNat (op : BitVec 4) (x : Reg) (nn : Byte) :
    (formatI op x nn).toNat = op.toNat * 4096 + x.val * 256 + nn.toNat := by
  rw [formatI, BitVec.toNat_append, ← Nat.shiftLeft_add_eq_or_of_lt nn.isLt, BitVec.toNat_append,
    ← Nat.shiftLeft_add_eq_or_of_lt (BitVec.isLt _)]
  simp [Nat.shiftLeft_eq]
  omega

theorem formatR_toNat (op : BitVec 4) (x y : Reg) (n : BitVec 4) :
    (formatR op x y n).toNat = op.toNat * 4096 + x.val * 256 + y.val * 16 + n.toNat := by
  rw [formatR, BitVec.toNat_append, ← Nat.shiftLeft_add_eq_or_of_lt n.isLt, BitVec.toNat_append,
    ← Nat.shiftLeft_add_eq_or_of_lt (BitVec.isLt _), BitVec.toNat_append,
    ← Nat.shiftLeft_add_eq_or_of_lt (BitVec.isLt _)]
  simp [Nat.shiftLeft_eq]
  omega

/-! ## Reading a format back -/

/-- Format A (R82). -/
theorem fields_formatA (op : BitVec 4) (nnn : BitVec 12) :
    fieldOp (formatA op nnn) = op ∧ fieldNNN (formatA op nnn) = nnn := by
  constructor <;> apply BitVec.eq_of_toNat_eq
  · rw [fieldOp_toNat, formatA_toNat]; omega
  · rw [fieldNNN_toNat, formatA_toNat]; omega

/-- Formats I and X (R82). -/
theorem fields_formatI (op : BitVec 4) (x : Reg) (nn : Byte) :
    fieldOp (formatI op x nn) = op ∧ fieldX (formatI op x nn) = x ∧ fieldNN (formatI op x nn) = nn := by
  refine ⟨BitVec.eq_of_toNat_eq ?_, Fin.ext ?_, BitVec.eq_of_toNat_eq ?_⟩
  · rw [fieldOp_toNat, formatI_toNat]; omega
  · rw [fieldX_val, formatI_toNat]; omega
  · rw [fieldNN_toNat, formatI_toNat]; omega

/-- Formats R and D (R82). -/
theorem fields_formatR (op : BitVec 4) (x y : Reg) (n : BitVec 4) :
    fieldOp (formatR op x y n) = op ∧ fieldX (formatR op x y n) = x ∧ fieldY (formatR op x y n) = y ∧
      fieldN (formatR op x y n) = n := by
  refine ⟨BitVec.eq_of_toNat_eq ?_, Fin.ext ?_, Fin.ext ?_, BitVec.eq_of_toNat_eq ?_⟩
  · rw [fieldOp_toNat, formatR_toNat]; omega
  · rw [fieldX_val, formatR_toNat]; omega
  · rw [fieldY_val, formatR_toNat]; omega
  · rw [fieldN_toNat, formatR_toNat]; omega

/-! ## A word from its fields -/

theorem formatA_of_fields (w : Word) : formatA (fieldOp w) (fieldNNN w) = w := by
  apply BitVec.eq_of_toNat_eq
  rw [formatA_toNat, fieldNNN_toNat, fieldOp_toNat]
  omega

theorem formatI_of_fields (w : Word) : formatI (fieldOp w) (fieldX w) (fieldNN w) = w := by
  apply BitVec.eq_of_toNat_eq
  rw [formatI_toNat, fieldX_val, fieldNN_toNat, fieldOp_toNat]
  omega

theorem formatR_of_fields (w : Word) : formatR (fieldOp w) (fieldX w) (fieldY w) (fieldN w) = w := by
  apply BitVec.eq_of_toNat_eq
  rw [formatR_toNat, fieldX_val, fieldY_val, fieldN_toNat, fieldOp_toNat]
  omega

/-! ## A word under the masks of R84 -/

theorem and_mask_op (w : Word) : w &&& 0xF000#16 = fieldOp w ++ 0x000#12 := by
  apply BitVec.eq_of_getLsbD_eq
  intro i hi
  simp only [BitVec.getLsbD_and, BitVec.getLsbD_append, BitVec.getLsbD_extractLsb', fieldOp]
  interval_cases i <;> simp

theorem and_mask_op_n (w : Word) : w &&& 0xF00F#16 = fieldOp w ++ 0x00#8 ++ fieldN w := by
  apply BitVec.eq_of_getLsbD_eq
  intro i hi
  simp only [BitVec.getLsbD_and, BitVec.getLsbD_append, BitVec.getLsbD_extractLsb', fieldOp, fieldN]
  interval_cases i <;> simp

theorem and_mask_op_nn (w : Word) : w &&& 0xF0FF#16 = fieldOp w ++ 0x0#4 ++ fieldNN w := by
  apply BitVec.eq_of_getLsbD_eq
  intro i hi
  simp only [BitVec.getLsbD_and, BitVec.getLsbD_append, BitVec.getLsbD_extractLsb', fieldOp, fieldNN]
  interval_cases i <;> simp

theorem and_mask_all (w : Word) : w &&& 0xFFFF#16 = w := BitVec.and_allOnes

end Sys2Proof
end

