-- ==== Sys2Proof/Laws/Framebuffer.lean ====
section
/-! SUPPORT. What the framebuffer operations do, pixel by pixel (spec 44_display R192, R193). -/

namespace Sys2Proof.Machine

@[simp] theorem fbPixel_mod (fb : Framebuffer) (c r : Nat) : fbPixel fb (c % 64) (r % 32) = fbPixel fb c r := by
  simp [fbPixel]

/-- Two framebuffers with the same pixels are the same. -/
theorem fb_ext {f g : Framebuffer} (h : ∀ c r, c < 64 → r < 32 → fbPixel f c r = fbPixel g c r) : f = g := by
  ext r hr c hc
  have := h c r hc hr
  simpa [fbPixel, Nat.mod_eq_of_lt hr, Nat.mod_eq_of_lt hc] using this

@[simp] theorem fbPixel_fbClear (c r : Nat) : fbPixel fbClear c r = false := by simp [fbPixel, fbClear]

/-- A toggle flips its own pixel and no other. -/
theorem fbPixel_fbToggle (fb : Framebuffer) (x y c r : Nat) :
    fbPixel (fbToggle fb x y) c r = (fbPixel fb c r ^^ decide (x % 64 = c % 64 ∧ y % 32 = r % 32)) := by
  simp only [fbPixel, fbToggle, Vector.getElem_set]
  by_cases h1 : y % 32 = r % 32
  · by_cases h2 : x % 64 = c % 64 <;> simp [h1, h2]
  · simp [h1]

/-- The columns `cols` of the sprite row `b` drawn at `(x, y)` hold a 1 for the pixel `(c, r)`. -/
def rowHits (x y : Nat) (b : Byte) (cols : List Nat) (c r : Nat) : Bool :=
  cols.any fun col => b.getLsbD (7 - col) && decide ((x + col) % 64 = c % 64 ∧ y % 32 = r % 32)

/-- Some columns of a sprite row: the pixels they hit are flipped, and there is a collision if one of them was set. -/
theorem drawBits_spec (x y : Nat) (b : Byte) (cols : List Nat) (acc : Framebuffer × Bool) (hd : cols.Pairwise (· ≠ ·))
    (hlt : ∀ c ∈ cols, c < 8) :
    (∀ c r, fbPixel (cols.foldl (drawBit x y b) acc).1 c r = (fbPixel acc.1 c r ^^ rowHits x y b cols c r)) ∧
    (cols.foldl (drawBit x y b) acc).2 =
      (acc.2 || cols.any fun col => b.getLsbD (7 - col) && fbPixel acc.1 (x + col) y) := by
  induction cols generalizing acc with
  | nil => simp [rowHits]
  | cons k ks ih =>
    obtain ⟨h1, h2⟩ := List.pairwise_cons.1 hd
    have ih := ih (drawBit x y b acc k) h2 (fun c hc => hlt c (by simp [hc]))
    have hk := hlt k (by simp)
    rw [List.foldl_cons]
    refine ⟨fun c r => ?_, ?_⟩
    · rw [ih.1]
      unfold drawBit rowHits
      split
      · next hb =>
        simp only [fbPixel_fbToggle, List.any_cons, hb, Bool.true_and]
        by_cases e : (x + k) % 64 = c % 64 ∧ y % 32 = r % 32
        · have : (ks.any fun col => b.getLsbD (7 - col) && decide ((x + col) % 64 = c % 64 ∧ y % 32 = r % 32)) = false := by
            rw [List.any_eq_false]
            intro j hj
            have := h1 j hj
            have := hlt j (by simp [hj])
            simp
            intro _ e2
            omega
          rw [this]
          simp [e]
        · simp [e]
      · next hb => simp [hb]
    · rw [ih.2]
      unfold drawBit
      split
      · next hb =>
        simp only [List.any_cons, hb, Bool.true_and, fbPixel_fbToggle, Bool.or_assoc]
        congr 2
        rw [Bool.eq_iff_iff]
        simp only [List.any_eq_true]
        constructor <;> rintro ⟨j, hj, h⟩ <;> refine ⟨j, hj, ?_⟩ <;>
          (have := h1 j hj; have := hlt j (by simp [hj]); rw [decide_eq_false (by omega)] at *; simpa using h)
      · next hb => simp [hb]

/-- One row of a sprite (R193). -/
theorem drawRow_spec (x y : Nat) (b : Byte) (acc : Framebuffer × Bool) :
    (∀ c r, fbPixel (drawRow x y b acc).1 c r = (fbPixel acc.1 c r ^^ rowHits x y b [0, 1, 2, 3, 4, 5, 6, 7] c r)) ∧
    (drawRow x y b acc).2 =
      (acc.2 || [0, 1, 2, 3, 4, 5, 6, 7].any fun col => b.getLsbD (7 - col) && fbPixel acc.1 (x + col) y) :=
  drawBits_spec x y b _ acc (by decide) (by decide)

theorem rowHits_iff (x y : Nat) (b : Byte) (c r : Nat) :
    rowHits x y b [0, 1, 2, 3, 4, 5, 6, 7] c r = true ↔
      ∃ col, col < 8 ∧ b.getLsbD (7 - col) = true ∧ (x + col) % 64 = c % 64 ∧ y % 32 = r % 32 := by
  simp only [rowHits, List.any_eq_true]
  constructor
  · rintro ⟨col, hm, h⟩
    simp at hm h
    exact ⟨col, by omega, h.1, h.2⟩
  · rintro ⟨col, hm, h⟩
    exact ⟨col, by simp; omega, by simpa using h⟩

theorem spriteBit_row {bs : List Byte} {row col : Nat} (h : spriteBit bs row col = true) : row < bs.length := by
  simp [spriteBit] at h
  omega

/-- A 1 bit of a sprite is one of its first row or one of the others. -/
theorem exists_spriteBit_cons (b : Byte) (bs : List Byte) (P : Nat → Nat → Prop) :
    (∃ row col, spriteBit (b :: bs) row col = true ∧ P row col) ↔
      (∃ col, col < 8 ∧ b.getLsbD (7 - col) = true ∧ P 0 col) ∨
      (∃ row col, spriteBit bs row col = true ∧ P (row + 1) col) := by
  constructor
  · rintro ⟨_ | row, col, h, hp⟩
    · simp [spriteBit] at h
      exact .inl ⟨col, h.1, h.2, hp⟩
    · exact .inr ⟨row, col, by simpa [spriteBit] using h, hp⟩
  · rintro (⟨col, h1, h2, hp⟩ | ⟨row, col, h, hp⟩)
    · exact ⟨0, col, by simp [spriteBit, h1, h2], hp⟩
    · exact ⟨row + 1, col, by simpa [spriteBit] using h, hp⟩

open Classical in
/-- The rows of a sprite of at most 32 rows: the pixels its 1 bits cover are flipped, and there is a collision if one of
them was set. -/
theorem drawRows_spec (x : Nat) (bs : List Byte) (y : Nat) (acc : Framebuffer × Bool) (hl : bs.length ≤ 32) :
    (∀ c r, fbPixel (drawRows x y bs acc).1 c r = (fbPixel acc.1 c r ^^
      decide (∃ row col, spriteBit bs row col = true ∧ (x + col) % 64 = c % 64 ∧ (y + row) % 32 = r % 32))) ∧
    ((drawRows x y bs acc).2 = true ↔
      (acc.2 = true ∨ ∃ row col, spriteBit bs row col = true ∧ fbPixel acc.1 (x + col) (y + row) = true)) := by
  induction bs generalizing y acc with
  | nil => simp [drawRows, spriteBit]
  | cons b bs ih =>
    simp only [List.length_cons] at hl
    obtain ⟨i1, i2⟩ := ih (y + 1) (drawRow x y b acc) (by omega)
    obtain ⟨d1, d2⟩ := drawRow_spec x y b acc
    simp only [Nat.add_right_comm y 1] at i1 i2
    refine ⟨fun c r => ?_, ?_⟩
    · rw [drawRows, i1, d1, Bool.xor_assoc]
      congr 1
      rw [Bool.eq_iff_iff, decide_eq_true_iff,
        exists_spriteBit_cons b bs fun row col => (x + col) % 64 = c % 64 ∧ (y + row) % 32 = r % 32]
      simp only [Nat.add_zero, ← Nat.add_assoc]
      have hdis : ¬(rowHits x y b [0, 1, 2, 3, 4, 5, 6, 7] c r = true ∧
          ∃ row col, spriteBit bs row col = true ∧ (x + col) % 64 = c % 64 ∧ (y + row + 1) % 32 = r % 32) := by
        rintro ⟨h1, row, col, h2, _, h3⟩
        obtain ⟨_, _, _, _, h4⟩ := (rowHits_iff x y b c r).1 h1
        have := spriteBit_row h2
        omega
      rw [← rowHits_iff x y b c r]
      generalize rowHits x y b [0, 1, 2, 3, 4, 5, 6, 7] c r = p at *
      generalize (∃ row col, spriteBit bs row col = true ∧ (x + col) % 64 = c % 64 ∧ (y + row + 1) % 32 = r % 32) = q at *
      by_cases hq : q <;> cases p <;> simp [hq] at hdis ⊢
    · rw [drawRows, i2, d2, exists_spriteBit_cons b bs fun row col => fbPixel acc.1 (x + col) (y + row) = true]
      simp only [Nat.add_zero, ← Nat.add_assoc]
      have hp : ∀ row col, spriteBit bs row col = true →
          fbPixel (drawRow x y b acc).1 (x + col) (y + row + 1) = fbPixel acc.1 (x + col) (y + row + 1) := by
        intro row col h
        have := spriteBit_row h
        have hn : rowHits x y b [0, 1, 2, 3, 4, 5, 6, 7] (x + col) (y + row + 1) = false := by
          rw [Bool.eq_false_iff]
          intro h'
          obtain ⟨_, _, _, _, h4⟩ := (rowHits_iff x y b _ _).1 h'
          omega
        rw [d1, hn]
        simp
      have hq : (∃ row col, spriteBit bs row col = true ∧ fbPixel (drawRow x y b acc).1 (x + col) (y + row + 1) = true) ↔
          ∃ row col, spriteBit bs row col = true ∧ fbPixel acc.1 (x + col) (y + row + 1) = true := by
        constructor <;> rintro ⟨row, col, h, h2⟩ <;> refine ⟨row, col, h, ?_⟩
        · rw [← hp _ _ h]; exact h2
        · rw [hp _ _ h]; exact h2
      rw [hq, Bool.or_eq_true, List.any_eq_true, or_assoc]
      have hr : (∃ k ∈ [0, 1, 2, 3, 4, 5, 6, 7], (b.getLsbD (7 - k) && fbPixel acc.1 (x + k) y) = true) ↔
          ∃ col, col < 8 ∧ b.getLsbD (7 - col) = true ∧ fbPixel acc.1 (x + col) y = true := by
        constructor
        · rintro ⟨col, hm, h⟩
          simp at hm h
          exact ⟨col, by omega, h.1, h.2⟩
        · rintro ⟨col, hm, h⟩
          exact ⟨col, by simp; omega, by simpa using h⟩
      rw [hr]

/-- What drawing a sprite of at most 15 rows can do (R193, R195 (c)): a pixel keeps its value exactly when no 1 bit covers
it, and there is a collision exactly when a covered pixel was set. -/
theorem drawSprite_spec (x y : Byte) (fb : Framebuffer) (bs : List Byte) (hl : bs.length ≤ 15) :
    (∀ c r, c < 64 → r < 32 →
      (fbPixel (drawSprite fb x y bs).1 c r = fbPixel fb c r ↔ ¬covers x y bs c r)) ∧
    ((drawSprite fb x y bs).2 = true ↔ ∃ c r, covers x y bs c r ∧ fbPixel fb c r = true) := by
  obtain ⟨a, b⟩ := drawRows_spec x.toNat bs y.toNat (fb, false) (by omega)
  constructor
  · intro c r hc hr
    rw [drawSprite, a, Nat.mod_eq_of_lt hc, Nat.mod_eq_of_lt hr]
    show _ ↔ ¬(∃ row col, _)
    cases fbPixel fb c r <;> simp
  · rw [drawSprite, b]
    simp only [covers, Bool.false_eq_true, false_or]
    constructor
    · rintro ⟨row, col, h, h2⟩
      exact ⟨_, _, ⟨row, col, h, rfl, rfl⟩, by simpa using h2⟩
    · rintro ⟨_, _, ⟨row, col, h, rfl, rfl⟩, h2⟩
      exact ⟨row, col, h, by simpa using h2⟩

@[simp] theorem spriteAt_length (s : State) (n : Nat) : (spriteAt s n).length = n := by simp [spriteAt]

end Sys2Proof.Machine
end

