-- ==== Sys2Proof/Laws/State.lean ====
section
/-! SUPPORT. The small lemmas of the state: for each update the value of every field after it, true by rfl, so that no proof
unfolds a record update; and reading a register after a write. -/

namespace Sys2Proof.Machine

section Fields

variable (s : State)

/-! ### setReg -/

@[simp] theorem State.setReg_v (x : Reg) (b : Byte) : (s.setReg x b).v = s.v.set x.val b := rfl
@[simp] theorem State.setReg_i (x : Reg) (b : Byte) : (s.setReg x b).i = s.i := rfl
@[simp] theorem State.setReg_pc (x : Reg) (b : Byte) : (s.setReg x b).pc = s.pc := rfl
@[simp] theorem State.setReg_sp (x : Reg) (b : Byte) : (s.setReg x b).sp = s.sp := rfl
@[simp] theorem State.setReg_stack (x : Reg) (b : Byte) : (s.setReg x b).stack = s.stack := rfl
@[simp] theorem State.setReg_dt (x : Reg) (b : Byte) : (s.setReg x b).dt = s.dt := rfl
@[simp] theorem State.setReg_st (x : Reg) (b : Byte) : (s.setReg x b).st = s.st := rfl
@[simp] theorem State.setReg_mem (x : Reg) (b : Byte) : (s.setReg x b).mem = s.mem := rfl
@[simp] theorem State.setReg_fb (x : Reg) (b : Byte) : (s.setReg x b).fb = s.fb := rfl
@[simp] theorem State.setReg_key (x : Reg) (b : Byte) : (s.setReg x b).key = s.key := rfl
@[simp] theorem State.setReg_status (x : Reg) (b : Byte) : (s.setReg x b).status = s.status := rfl
@[simp] theorem State.setReg_fault (x : Reg) (b : Byte) : (s.setReg x b).fault = s.fault := rfl
@[simp] theorem State.setReg_invop (x : Reg) (b : Byte) : (s.setReg x b).invop = s.invop := rfl
@[simp] theorem State.setReg_draws (x : Reg) (b : Byte) : (s.setReg x b).draws = s.draws := rfl
@[simp] theorem State.setReg_reports (x : Reg) (b : Byte) : (s.setReg x b).reports = s.reports := rfl
@[simp] theorem State.setReg_schedule (x : Reg) (b : Byte) : (s.setReg x b).schedule = s.schedule := rfl
@[simp] theorem State.setReg_stage (x : Reg) (b : Byte) : (s.setReg x b).stage = s.stage := rfl

/-! ### setFlag -/

@[simp] theorem State.setFlag_v (b : Byte) : (s.setFlag b).v = s.v.set 15 b := rfl
@[simp] theorem State.setFlag_i (b : Byte) : (s.setFlag b).i = s.i := rfl
@[simp] theorem State.setFlag_pc (b : Byte) : (s.setFlag b).pc = s.pc := rfl
@[simp] theorem State.setFlag_sp (b : Byte) : (s.setFlag b).sp = s.sp := rfl
@[simp] theorem State.setFlag_stack (b : Byte) : (s.setFlag b).stack = s.stack := rfl
@[simp] theorem State.setFlag_dt (b : Byte) : (s.setFlag b).dt = s.dt := rfl
@[simp] theorem State.setFlag_st (b : Byte) : (s.setFlag b).st = s.st := rfl
@[simp] theorem State.setFlag_mem (b : Byte) : (s.setFlag b).mem = s.mem := rfl
@[simp] theorem State.setFlag_fb (b : Byte) : (s.setFlag b).fb = s.fb := rfl
@[simp] theorem State.setFlag_key (b : Byte) : (s.setFlag b).key = s.key := rfl
@[simp] theorem State.setFlag_status (b : Byte) : (s.setFlag b).status = s.status := rfl
@[simp] theorem State.setFlag_fault (b : Byte) : (s.setFlag b).fault = s.fault := rfl
@[simp] theorem State.setFlag_invop (b : Byte) : (s.setFlag b).invop = s.invop := rfl
@[simp] theorem State.setFlag_draws (b : Byte) : (s.setFlag b).draws = s.draws := rfl
@[simp] theorem State.setFlag_reports (b : Byte) : (s.setFlag b).reports = s.reports := rfl
@[simp] theorem State.setFlag_schedule (b : Byte) : (s.setFlag b).schedule = s.schedule := rfl
@[simp] theorem State.setFlag_stage (b : Byte) : (s.setFlag b).stage = s.stage := rfl

/-! ### setRegs -/

@[simp] theorem State.setRegs_v (v : RegFile) : (s.setRegs v).v = v := rfl
@[simp] theorem State.setRegs_i (v : RegFile) : (s.setRegs v).i = s.i := rfl
@[simp] theorem State.setRegs_pc (v : RegFile) : (s.setRegs v).pc = s.pc := rfl
@[simp] theorem State.setRegs_sp (v : RegFile) : (s.setRegs v).sp = s.sp := rfl
@[simp] theorem State.setRegs_stack (v : RegFile) : (s.setRegs v).stack = s.stack := rfl
@[simp] theorem State.setRegs_dt (v : RegFile) : (s.setRegs v).dt = s.dt := rfl
@[simp] theorem State.setRegs_st (v : RegFile) : (s.setRegs v).st = s.st := rfl
@[simp] theorem State.setRegs_mem (v : RegFile) : (s.setRegs v).mem = s.mem := rfl
@[simp] theorem State.setRegs_fb (v : RegFile) : (s.setRegs v).fb = s.fb := rfl
@[simp] theorem State.setRegs_key (v : RegFile) : (s.setRegs v).key = s.key := rfl
@[simp] theorem State.setRegs_status (v : RegFile) : (s.setRegs v).status = s.status := rfl
@[simp] theorem State.setRegs_fault (v : RegFile) : (s.setRegs v).fault = s.fault := rfl
@[simp] theorem State.setRegs_invop (v : RegFile) : (s.setRegs v).invop = s.invop := rfl
@[simp] theorem State.setRegs_draws (v : RegFile) : (s.setRegs v).draws = s.draws := rfl
@[simp] theorem State.setRegs_reports (v : RegFile) : (s.setRegs v).reports = s.reports := rfl
@[simp] theorem State.setRegs_schedule (v : RegFile) : (s.setRegs v).schedule = s.schedule := rfl
@[simp] theorem State.setRegs_stage (v : RegFile) : (s.setRegs v).stage = s.stage := rfl

/-! ### setI -/

@[simp] theorem State.setI_v (a : Word) : (s.setI a).v = s.v := rfl
@[simp] theorem State.setI_i (a : Word) : (s.setI a).i = a := rfl
@[simp] theorem State.setI_pc (a : Word) : (s.setI a).pc = s.pc := rfl
@[simp] theorem State.setI_sp (a : Word) : (s.setI a).sp = s.sp := rfl
@[simp] theorem State.setI_stack (a : Word) : (s.setI a).stack = s.stack := rfl
@[simp] theorem State.setI_dt (a : Word) : (s.setI a).dt = s.dt := rfl
@[simp] theorem State.setI_st (a : Word) : (s.setI a).st = s.st := rfl
@[simp] theorem State.setI_mem (a : Word) : (s.setI a).mem = s.mem := rfl
@[simp] theorem State.setI_fb (a : Word) : (s.setI a).fb = s.fb := rfl
@[simp] theorem State.setI_key (a : Word) : (s.setI a).key = s.key := rfl
@[simp] theorem State.setI_status (a : Word) : (s.setI a).status = s.status := rfl
@[simp] theorem State.setI_fault (a : Word) : (s.setI a).fault = s.fault := rfl
@[simp] theorem State.setI_invop (a : Word) : (s.setI a).invop = s.invop := rfl
@[simp] theorem State.setI_draws (a : Word) : (s.setI a).draws = s.draws := rfl
@[simp] theorem State.setI_reports (a : Word) : (s.setI a).reports = s.reports := rfl
@[simp] theorem State.setI_schedule (a : Word) : (s.setI a).schedule = s.schedule := rfl
@[simp] theorem State.setI_stage (a : Word) : (s.setI a).stage = s.stage := rfl

/-! ### setDT -/

@[simp] theorem State.setDT_v (b : Byte) : (s.setDT b).v = s.v := rfl
@[simp] theorem State.setDT_i (b : Byte) : (s.setDT b).i = s.i := rfl
@[simp] theorem State.setDT_pc (b : Byte) : (s.setDT b).pc = s.pc := rfl
@[simp] theorem State.setDT_sp (b : Byte) : (s.setDT b).sp = s.sp := rfl
@[simp] theorem State.setDT_stack (b : Byte) : (s.setDT b).stack = s.stack := rfl
@[simp] theorem State.setDT_dt (b : Byte) : (s.setDT b).dt = b := rfl
@[simp] theorem State.setDT_st (b : Byte) : (s.setDT b).st = s.st := rfl
@[simp] theorem State.setDT_mem (b : Byte) : (s.setDT b).mem = s.mem := rfl
@[simp] theorem State.setDT_fb (b : Byte) : (s.setDT b).fb = s.fb := rfl
@[simp] theorem State.setDT_key (b : Byte) : (s.setDT b).key = s.key := rfl
@[simp] theorem State.setDT_status (b : Byte) : (s.setDT b).status = s.status := rfl
@[simp] theorem State.setDT_fault (b : Byte) : (s.setDT b).fault = s.fault := rfl
@[simp] theorem State.setDT_invop (b : Byte) : (s.setDT b).invop = s.invop := rfl
@[simp] theorem State.setDT_draws (b : Byte) : (s.setDT b).draws = s.draws := rfl
@[simp] theorem State.setDT_reports (b : Byte) : (s.setDT b).reports = s.reports := rfl
@[simp] theorem State.setDT_schedule (b : Byte) : (s.setDT b).schedule = s.schedule := rfl
@[simp] theorem State.setDT_stage (b : Byte) : (s.setDT b).stage = s.stage := rfl

/-! ### setST -/

@[simp] theorem State.setST_v (b : Byte) : (s.setST b).v = s.v := rfl
@[simp] theorem State.setST_i (b : Byte) : (s.setST b).i = s.i := rfl
@[simp] theorem State.setST_pc (b : Byte) : (s.setST b).pc = s.pc := rfl
@[simp] theorem State.setST_sp (b : Byte) : (s.setST b).sp = s.sp := rfl
@[simp] theorem State.setST_stack (b : Byte) : (s.setST b).stack = s.stack := rfl
@[simp] theorem State.setST_dt (b : Byte) : (s.setST b).dt = s.dt := rfl
@[simp] theorem State.setST_st (b : Byte) : (s.setST b).st = b := rfl
@[simp] theorem State.setST_mem (b : Byte) : (s.setST b).mem = s.mem := rfl
@[simp] theorem State.setST_fb (b : Byte) : (s.setST b).fb = s.fb := rfl
@[simp] theorem State.setST_key (b : Byte) : (s.setST b).key = s.key := rfl
@[simp] theorem State.setST_status (b : Byte) : (s.setST b).status = s.status := rfl
@[simp] theorem State.setST_fault (b : Byte) : (s.setST b).fault = s.fault := rfl
@[simp] theorem State.setST_invop (b : Byte) : (s.setST b).invop = s.invop := rfl
@[simp] theorem State.setST_draws (b : Byte) : (s.setST b).draws = s.draws := rfl
@[simp] theorem State.setST_reports (b : Byte) : (s.setST b).reports = s.reports := rfl
@[simp] theorem State.setST_schedule (b : Byte) : (s.setST b).schedule = s.schedule := rfl
@[simp] theorem State.setST_stage (b : Byte) : (s.setST b).stage = s.stage := rfl

/-! ### setFB -/

@[simp] theorem State.setFB_v (fb : Framebuffer) : (s.setFB fb).v = s.v := rfl
@[simp] theorem State.setFB_i (fb : Framebuffer) : (s.setFB fb).i = s.i := rfl
@[simp] theorem State.setFB_pc (fb : Framebuffer) : (s.setFB fb).pc = s.pc := rfl
@[simp] theorem State.setFB_sp (fb : Framebuffer) : (s.setFB fb).sp = s.sp := rfl
@[simp] theorem State.setFB_stack (fb : Framebuffer) : (s.setFB fb).stack = s.stack := rfl
@[simp] theorem State.setFB_dt (fb : Framebuffer) : (s.setFB fb).dt = s.dt := rfl
@[simp] theorem State.setFB_st (fb : Framebuffer) : (s.setFB fb).st = s.st := rfl
@[simp] theorem State.setFB_mem (fb : Framebuffer) : (s.setFB fb).mem = s.mem := rfl
@[simp] theorem State.setFB_fb (fb : Framebuffer) : (s.setFB fb).fb = fb := rfl
@[simp] theorem State.setFB_key (fb : Framebuffer) : (s.setFB fb).key = s.key := rfl
@[simp] theorem State.setFB_status (fb : Framebuffer) : (s.setFB fb).status = s.status := rfl
@[simp] theorem State.setFB_fault (fb : Framebuffer) : (s.setFB fb).fault = s.fault := rfl
@[simp] theorem State.setFB_invop (fb : Framebuffer) : (s.setFB fb).invop = s.invop := rfl
@[simp] theorem State.setFB_draws (fb : Framebuffer) : (s.setFB fb).draws = s.draws := rfl
@[simp] theorem State.setFB_reports (fb : Framebuffer) : (s.setFB fb).reports = s.reports := rfl
@[simp] theorem State.setFB_schedule (fb : Framebuffer) : (s.setFB fb).schedule = s.schedule := rfl
@[simp] theorem State.setFB_stage (fb : Framebuffer) : (s.setFB fb).stage = s.stage := rfl

/-! ### setMem -/

@[simp] theorem State.setMem_v (m : Memory) : (s.setMem m).v = s.v := rfl
@[simp] theorem State.setMem_i (m : Memory) : (s.setMem m).i = s.i := rfl
@[simp] theorem State.setMem_pc (m : Memory) : (s.setMem m).pc = s.pc := rfl
@[simp] theorem State.setMem_sp (m : Memory) : (s.setMem m).sp = s.sp := rfl
@[simp] theorem State.setMem_stack (m : Memory) : (s.setMem m).stack = s.stack := rfl
@[simp] theorem State.setMem_dt (m : Memory) : (s.setMem m).dt = s.dt := rfl
@[simp] theorem State.setMem_st (m : Memory) : (s.setMem m).st = s.st := rfl
@[simp] theorem State.setMem_mem (m : Memory) : (s.setMem m).mem = m := rfl
@[simp] theorem State.setMem_fb (m : Memory) : (s.setMem m).fb = s.fb := rfl
@[simp] theorem State.setMem_key (m : Memory) : (s.setMem m).key = s.key := rfl
@[simp] theorem State.setMem_status (m : Memory) : (s.setMem m).status = s.status := rfl
@[simp] theorem State.setMem_fault (m : Memory) : (s.setMem m).fault = s.fault := rfl
@[simp] theorem State.setMem_invop (m : Memory) : (s.setMem m).invop = s.invop := rfl
@[simp] theorem State.setMem_draws (m : Memory) : (s.setMem m).draws = s.draws := rfl
@[simp] theorem State.setMem_reports (m : Memory) : (s.setMem m).reports = s.reports := rfl
@[simp] theorem State.setMem_schedule (m : Memory) : (s.setMem m).schedule = s.schedule := rfl
@[simp] theorem State.setMem_stage (m : Memory) : (s.setMem m).stage = s.stage := rfl

/-! ### setStatus -/

@[simp] theorem State.setStatus_v (c : Status) : (s.setStatus c).v = s.v := rfl
@[simp] theorem State.setStatus_i (c : Status) : (s.setStatus c).i = s.i := rfl
@[simp] theorem State.setStatus_pc (c : Status) : (s.setStatus c).pc = s.pc := rfl
@[simp] theorem State.setStatus_sp (c : Status) : (s.setStatus c).sp = s.sp := rfl
@[simp] theorem State.setStatus_stack (c : Status) : (s.setStatus c).stack = s.stack := rfl
@[simp] theorem State.setStatus_dt (c : Status) : (s.setStatus c).dt = s.dt := rfl
@[simp] theorem State.setStatus_st (c : Status) : (s.setStatus c).st = s.st := rfl
@[simp] theorem State.setStatus_mem (c : Status) : (s.setStatus c).mem = s.mem := rfl
@[simp] theorem State.setStatus_fb (c : Status) : (s.setStatus c).fb = s.fb := rfl
@[simp] theorem State.setStatus_key (c : Status) : (s.setStatus c).key = s.key := rfl
@[simp] theorem State.setStatus_status (c : Status) : (s.setStatus c).status = c := rfl
@[simp] theorem State.setStatus_fault (c : Status) : (s.setStatus c).fault = s.fault := rfl
@[simp] theorem State.setStatus_invop (c : Status) : (s.setStatus c).invop = s.invop := rfl
@[simp] theorem State.setStatus_draws (c : Status) : (s.setStatus c).draws = s.draws := rfl
@[simp] theorem State.setStatus_reports (c : Status) : (s.setStatus c).reports = s.reports := rfl
@[simp] theorem State.setStatus_schedule (c : Status) : (s.setStatus c).schedule = s.schedule := rfl
@[simp] theorem State.setStatus_stage (c : Status) : (s.setStatus c).stage = s.stage := rfl

/-! ### startStep -/

@[simp] theorem State.startStep_v : s.startStep.v = s.v := rfl
@[simp] theorem State.startStep_i : s.startStep.i = s.i := rfl
@[simp] theorem State.startStep_pc : s.startStep.pc = s.pc := rfl
@[simp] theorem State.startStep_sp : s.startStep.sp = s.sp := rfl
@[simp] theorem State.startStep_stack : s.startStep.stack = s.stack := rfl
@[simp] theorem State.startStep_dt : s.startStep.dt = s.dt := rfl
@[simp] theorem State.startStep_st : s.startStep.st = s.st := rfl
@[simp] theorem State.startStep_mem : s.startStep.mem = s.mem := rfl
@[simp] theorem State.startStep_fb : s.startStep.fb = s.fb := rfl
@[simp] theorem State.startStep_key : s.startStep.key = s.key := rfl
@[simp] theorem State.startStep_status : s.startStep.status = .running := rfl
@[simp] theorem State.startStep_fault : s.startStep.fault = s.fault := rfl
@[simp] theorem State.startStep_invop : s.startStep.invop = s.invop := rfl
@[simp] theorem State.startStep_draws : s.startStep.draws = s.draws := rfl
@[simp] theorem State.startStep_reports : s.startStep.reports = s.reports := rfl
@[simp] theorem State.startStep_schedule : s.startStep.schedule = s.schedule := rfl
@[simp] theorem State.startStep_stage : s.startStep.stage = .started := rfl

/-! ### setPC -/

@[simp] theorem State.setPC_v (a : Word) : (s.setPC a).v = s.v := rfl
@[simp] theorem State.setPC_i (a : Word) : (s.setPC a).i = s.i := rfl
@[simp] theorem State.setPC_pc (a : Word) : (s.setPC a).pc = a := rfl
@[simp] theorem State.setPC_sp (a : Word) : (s.setPC a).sp = s.sp := rfl
@[simp] theorem State.setPC_stack (a : Word) : (s.setPC a).stack = s.stack := rfl
@[simp] theorem State.setPC_dt (a : Word) : (s.setPC a).dt = s.dt := rfl
@[simp] theorem State.setPC_st (a : Word) : (s.setPC a).st = s.st := rfl
@[simp] theorem State.setPC_mem (a : Word) : (s.setPC a).mem = s.mem := rfl
@[simp] theorem State.setPC_fb (a : Word) : (s.setPC a).fb = s.fb := rfl
@[simp] theorem State.setPC_key (a : Word) : (s.setPC a).key = s.key := rfl
@[simp] theorem State.setPC_status (a : Word) : (s.setPC a).status = s.status := rfl
@[simp] theorem State.setPC_fault (a : Word) : (s.setPC a).fault = s.fault := rfl
@[simp] theorem State.setPC_invop (a : Word) : (s.setPC a).invop = s.invop := rfl
@[simp] theorem State.setPC_draws (a : Word) : (s.setPC a).draws = s.draws := rfl
@[simp] theorem State.setPC_reports (a : Word) : (s.setPC a).reports = s.reports := rfl
@[simp] theorem State.setPC_schedule (a : Word) : (s.setPC a).schedule = s.schedule := rfl
@[simp] theorem State.setPC_stage (a : Word) : (s.setPC a).stage = s.stage := rfl

/-! ### advance -/

@[simp] theorem State.advance_v : (s.advance).v = s.v := rfl
@[simp] theorem State.advance_i : (s.advance).i = s.i := rfl
@[simp] theorem State.advance_pc : (s.advance).pc = s.pc + 2#16 := rfl
@[simp] theorem State.advance_sp : (s.advance).sp = s.sp := rfl
@[simp] theorem State.advance_stack : (s.advance).stack = s.stack := rfl
@[simp] theorem State.advance_dt : (s.advance).dt = s.dt := rfl
@[simp] theorem State.advance_st : (s.advance).st = s.st := rfl
@[simp] theorem State.advance_mem : (s.advance).mem = s.mem := rfl
@[simp] theorem State.advance_fb : (s.advance).fb = s.fb := rfl
@[simp] theorem State.advance_key : (s.advance).key = s.key := rfl
@[simp] theorem State.advance_status : (s.advance).status = s.status := rfl
@[simp] theorem State.advance_fault : (s.advance).fault = s.fault := rfl
@[simp] theorem State.advance_invop : (s.advance).invop = s.invop := rfl
@[simp] theorem State.advance_draws : (s.advance).draws = s.draws := rfl
@[simp] theorem State.advance_reports : (s.advance).reports = s.reports := rfl
@[simp] theorem State.advance_schedule : (s.advance).schedule = s.schedule := rfl
@[simp] theorem State.advance_stage : (s.advance).stage = s.stage := rfl

/-! ### skipIf -/

@[simp] theorem State.skipIf_v (c : Bool) : (s.skipIf c).v = s.v := rfl
@[simp] theorem State.skipIf_i (c : Bool) : (s.skipIf c).i = s.i := rfl
@[simp] theorem State.skipIf_pc (c : Bool) : (s.skipIf c).pc = if c then s.pc + 4#16 else s.pc + 2#16 := rfl
@[simp] theorem State.skipIf_sp (c : Bool) : (s.skipIf c).sp = s.sp := rfl
@[simp] theorem State.skipIf_stack (c : Bool) : (s.skipIf c).stack = s.stack := rfl
@[simp] theorem State.skipIf_dt (c : Bool) : (s.skipIf c).dt = s.dt := rfl
@[simp] theorem State.skipIf_st (c : Bool) : (s.skipIf c).st = s.st := rfl
@[simp] theorem State.skipIf_mem (c : Bool) : (s.skipIf c).mem = s.mem := rfl
@[simp] theorem State.skipIf_fb (c : Bool) : (s.skipIf c).fb = s.fb := rfl
@[simp] theorem State.skipIf_key (c : Bool) : (s.skipIf c).key = s.key := rfl
@[simp] theorem State.skipIf_status (c : Bool) : (s.skipIf c).status = s.status := rfl
@[simp] theorem State.skipIf_fault (c : Bool) : (s.skipIf c).fault = s.fault := rfl
@[simp] theorem State.skipIf_invop (c : Bool) : (s.skipIf c).invop = s.invop := rfl
@[simp] theorem State.skipIf_draws (c : Bool) : (s.skipIf c).draws = s.draws := rfl
@[simp] theorem State.skipIf_reports (c : Bool) : (s.skipIf c).reports = s.reports := rfl
@[simp] theorem State.skipIf_schedule (c : Bool) : (s.skipIf c).schedule = s.schedule := rfl
@[simp] theorem State.skipIf_stage (c : Bool) : (s.skipIf c).stage = s.stage := rfl

/-! ### raise -/

@[simp] theorem State.raise_v (r : Raise) : (s.raise r).v = s.v := rfl
@[simp] theorem State.raise_i (r : Raise) : (s.raise r).i = s.i := rfl
@[simp] theorem State.raise_pc (r : Raise) : (s.raise r).pc = s.pc := rfl
@[simp] theorem State.raise_sp (r : Raise) : (s.raise r).sp = s.sp := rfl
@[simp] theorem State.raise_stack (r : Raise) : (s.raise r).stack = s.stack := rfl
@[simp] theorem State.raise_dt (r : Raise) : (s.raise r).dt = s.dt := rfl
@[simp] theorem State.raise_st (r : Raise) : (s.raise r).st = s.st := rfl
@[simp] theorem State.raise_mem (r : Raise) : (s.raise r).mem = s.mem := rfl
@[simp] theorem State.raise_fb (r : Raise) : (s.raise r).fb = s.fb := rfl
@[simp] theorem State.raise_key (r : Raise) : (s.raise r).key = s.key := rfl
@[simp] theorem State.raise_status (r : Raise) : (s.raise r).status = .halted := rfl
@[simp] theorem State.raise_fault (r : Raise) : (s.raise r).fault = r.code := rfl
@[simp] theorem State.raise_invop (r : Raise) : (s.raise r).invop = s.invop := rfl
@[simp] theorem State.raise_draws (r : Raise) : (s.raise r).draws = s.draws := rfl
@[simp] theorem State.raise_reports (r : Raise) : (s.raise r).reports = .fatal r :: s.reports := rfl
@[simp] theorem State.raise_schedule (r : Raise) : (s.raise r).schedule = s.schedule := rfl
@[simp] theorem State.raise_stage (r : Raise) : (s.raise r).stage = s.stage := rfl

/-! ### invalidOpcode -/

@[simp] theorem State.invalidOpcode_v (w : Word) : (s.invalidOpcode w).v = s.v := rfl
@[simp] theorem State.invalidOpcode_i (w : Word) : (s.invalidOpcode w).i = s.i := rfl
@[simp] theorem State.invalidOpcode_pc (w : Word) : (s.invalidOpcode w).pc = s.pc + 2#16 := rfl
@[simp] theorem State.invalidOpcode_sp (w : Word) : (s.invalidOpcode w).sp = s.sp := rfl
@[simp] theorem State.invalidOpcode_stack (w : Word) : (s.invalidOpcode w).stack = s.stack := rfl
@[simp] theorem State.invalidOpcode_dt (w : Word) : (s.invalidOpcode w).dt = s.dt := rfl
@[simp] theorem State.invalidOpcode_st (w : Word) : (s.invalidOpcode w).st = s.st := rfl
@[simp] theorem State.invalidOpcode_mem (w : Word) : (s.invalidOpcode w).mem = s.mem := rfl
@[simp] theorem State.invalidOpcode_fb (w : Word) : (s.invalidOpcode w).fb = s.fb := rfl
@[simp] theorem State.invalidOpcode_key (w : Word) : (s.invalidOpcode w).key = s.key := rfl
@[simp] theorem State.invalidOpcode_status (w : Word) : (s.invalidOpcode w).status = s.status := rfl
@[simp] theorem State.invalidOpcode_fault (w : Word) : (s.invalidOpcode w).fault = s.fault := rfl
@[simp] theorem State.invalidOpcode_invop (w : Word) : (s.invalidOpcode w).invop = true := rfl
@[simp] theorem State.invalidOpcode_draws (w : Word) : (s.invalidOpcode w).draws = s.draws := rfl
@[simp] theorem State.invalidOpcode_reports (w : Word) : (s.invalidOpcode w).reports = .invalidOpcode s.pc w :: s.reports := rfl
@[simp] theorem State.invalidOpcode_schedule (w : Word) : (s.invalidOpcode w).schedule = s.schedule := rfl
@[simp] theorem State.invalidOpcode_stage (w : Word) : (s.invalidOpcode w).stage = s.stage := rfl

/-! ### resultAndFlag -/

@[simp] theorem State.resultAndFlag_v (x : Reg) (r f : Byte) : (s.resultAndFlag x r f).v = (s.v.set x.val r).set 15 f := rfl
@[simp] theorem State.resultAndFlag_i (x : Reg) (r f : Byte) : (s.resultAndFlag x r f).i = s.i := rfl
@[simp] theorem State.resultAndFlag_pc (x : Reg) (r f : Byte) : (s.resultAndFlag x r f).pc = s.pc + 2#16 := rfl
@[simp] theorem State.resultAndFlag_sp (x : Reg) (r f : Byte) : (s.resultAndFlag x r f).sp = s.sp := rfl
@[simp] theorem State.resultAndFlag_stack (x : Reg) (r f : Byte) : (s.resultAndFlag x r f).stack = s.stack := rfl
@[simp] theorem State.resultAndFlag_dt (x : Reg) (r f : Byte) : (s.resultAndFlag x r f).dt = s.dt := rfl
@[simp] theorem State.resultAndFlag_st (x : Reg) (r f : Byte) : (s.resultAndFlag x r f).st = s.st := rfl
@[simp] theorem State.resultAndFlag_mem (x : Reg) (r f : Byte) : (s.resultAndFlag x r f).mem = s.mem := rfl
@[simp] theorem State.resultAndFlag_fb (x : Reg) (r f : Byte) : (s.resultAndFlag x r f).fb = s.fb := rfl
@[simp] theorem State.resultAndFlag_key (x : Reg) (r f : Byte) : (s.resultAndFlag x r f).key = s.key := rfl
@[simp] theorem State.resultAndFlag_status (x : Reg) (r f : Byte) : (s.resultAndFlag x r f).status = s.status := rfl
@[simp] theorem State.resultAndFlag_fault (x : Reg) (r f : Byte) : (s.resultAndFlag x r f).fault = s.fault := rfl
@[simp] theorem State.resultAndFlag_invop (x : Reg) (r f : Byte) : (s.resultAndFlag x r f).invop = s.invop := rfl
@[simp] theorem State.resultAndFlag_draws (x : Reg) (r f : Byte) : (s.resultAndFlag x r f).draws = s.draws := rfl
@[simp] theorem State.resultAndFlag_reports (x : Reg) (r f : Byte) : (s.resultAndFlag x r f).reports = s.reports := rfl
@[simp] theorem State.resultAndFlag_schedule (x : Reg) (r f : Byte) : (s.resultAndFlag x r f).schedule = s.schedule := rfl
@[simp] theorem State.resultAndFlag_stage (x : Reg) (r f : Byte) : (s.resultAndFlag x r f).stage = s.stage := rfl

/-! ### tick -/

@[simp] theorem tick_v : (tick s).v = s.v := rfl
@[simp] theorem tick_i : (tick s).i = s.i := rfl
@[simp] theorem tick_pc : (tick s).pc = s.pc := rfl
@[simp] theorem tick_sp : (tick s).sp = s.sp := rfl
@[simp] theorem tick_stack : (tick s).stack = s.stack := rfl
@[simp] theorem tick_dt : (tick s).dt = tickTimer s.dt := rfl
@[simp] theorem tick_st : (tick s).st = tickTimer s.st := rfl
@[simp] theorem tick_mem : (tick s).mem = s.mem := rfl
@[simp] theorem tick_fb : (tick s).fb = s.fb := rfl
@[simp] theorem tick_key : (tick s).key = s.key := rfl
@[simp] theorem tick_status : (tick s).status = s.status := rfl
@[simp] theorem tick_fault : (tick s).fault = s.fault := rfl
@[simp] theorem tick_invop : (tick s).invop = s.invop := rfl
@[simp] theorem tick_draws : (tick s).draws = s.draws := rfl
@[simp] theorem tick_reports : (tick s).reports = s.reports := rfl
@[simp] theorem tick_schedule : (tick s).schedule = s.schedule := rfl
@[simp] theorem tick_stage : (tick s).stage = s.stage := rfl

/-! ### setKey -/

@[simp] theorem setKey_v (k : Key) (p : Bool) : (setKey s k p).v = s.v := rfl
@[simp] theorem setKey_i (k : Key) (p : Bool) : (setKey s k p).i = s.i := rfl
@[simp] theorem setKey_pc (k : Key) (p : Bool) : (setKey s k p).pc = s.pc := rfl
@[simp] theorem setKey_sp (k : Key) (p : Bool) : (setKey s k p).sp = s.sp := rfl
@[simp] theorem setKey_stack (k : Key) (p : Bool) : (setKey s k p).stack = s.stack := rfl
@[simp] theorem setKey_dt (k : Key) (p : Bool) : (setKey s k p).dt = s.dt := rfl
@[simp] theorem setKey_st (k : Key) (p : Bool) : (setKey s k p).st = s.st := rfl
@[simp] theorem setKey_mem (k : Key) (p : Bool) : (setKey s k p).mem = s.mem := rfl
@[simp] theorem setKey_fb (k : Key) (p : Bool) : (setKey s k p).fb = s.fb := rfl
@[simp] theorem setKey_key (k : Key) (p : Bool) : (setKey s k p).key = s.key.set k.val p := rfl
@[simp] theorem setKey_status (k : Key) (p : Bool) : (setKey s k p).status = s.status := rfl
@[simp] theorem setKey_fault (k : Key) (p : Bool) : (setKey s k p).fault = s.fault := rfl
@[simp] theorem setKey_invop (k : Key) (p : Bool) : (setKey s k p).invop = s.invop := rfl
@[simp] theorem setKey_draws (k : Key) (p : Bool) : (setKey s k p).draws = s.draws := rfl
@[simp] theorem setKey_reports (k : Key) (p : Bool) : (setKey s k p).reports = s.reports := rfl
@[simp] theorem setKey_schedule (k : Key) (p : Bool) : (setKey s k p).schedule = s.schedule := rfl
@[simp] theorem setKey_stage (k : Key) (p : Bool) : (setKey s k p).stage = s.stage := rfl

/-! ### randomByte -/

@[simp] theorem randomByte_v : (randomByte s).2.v = s.v := rfl
@[simp] theorem randomByte_i : (randomByte s).2.i = s.i := rfl
@[simp] theorem randomByte_pc : (randomByte s).2.pc = s.pc := rfl
@[simp] theorem randomByte_sp : (randomByte s).2.sp = s.sp := rfl
@[simp] theorem randomByte_stack : (randomByte s).2.stack = s.stack := rfl
@[simp] theorem randomByte_dt : (randomByte s).2.dt = s.dt := rfl
@[simp] theorem randomByte_st : (randomByte s).2.st = s.st := rfl
@[simp] theorem randomByte_mem : (randomByte s).2.mem = s.mem := rfl
@[simp] theorem randomByte_fb : (randomByte s).2.fb = s.fb := rfl
@[simp] theorem randomByte_key : (randomByte s).2.key = s.key := rfl
@[simp] theorem randomByte_status : (randomByte s).2.status = s.status := rfl
@[simp] theorem randomByte_fault : (randomByte s).2.fault = s.fault := rfl
@[simp] theorem randomByte_invop : (randomByte s).2.invop = s.invop := rfl
@[simp] theorem randomByte_draws : (randomByte s).2.draws = s.draws + 1 := rfl
@[simp] theorem randomByte_reports : (randomByte s).2.reports = s.reports := rfl
@[simp] theorem randomByte_schedule : (randomByte s).2.schedule = s.schedule := rfl
@[simp] theorem randomByte_stage : (randomByte s).2.stage = s.stage := rfl
@[simp] theorem randomByte_byte : (randomByte s).1 = Config.freeByte s.draws := rfl

/-! ### onReset -/

@[simp] theorem State.onReset_v : s.onReset.v = State.reset.v := rfl
@[simp] theorem State.onReset_i : s.onReset.i = State.reset.i := rfl
@[simp] theorem State.onReset_pc : s.onReset.pc = State.reset.pc := rfl
@[simp] theorem State.onReset_sp : s.onReset.sp = State.reset.sp := rfl
@[simp] theorem State.onReset_stack : s.onReset.stack = State.reset.stack := rfl
@[simp] theorem State.onReset_dt : s.onReset.dt = State.reset.dt := rfl
@[simp] theorem State.onReset_st : s.onReset.st = State.reset.st := rfl
@[simp] theorem State.onReset_mem : s.onReset.mem = State.reset.mem := rfl
@[simp] theorem State.onReset_fb : s.onReset.fb = State.reset.fb := rfl
@[simp] theorem State.onReset_key : s.onReset.key = State.reset.key := rfl
@[simp] theorem State.onReset_status : s.onReset.status = State.reset.status := rfl
@[simp] theorem State.onReset_fault : s.onReset.fault = State.reset.fault := rfl
@[simp] theorem State.onReset_invop : s.onReset.invop = State.reset.invop := rfl
@[simp] theorem State.onReset_draws : s.onReset.draws = s.draws := rfl
@[simp] theorem State.onReset_reports : s.onReset.reports = s.reports := rfl
@[simp] theorem State.onReset_schedule : s.onReset.schedule = s.schedule := rfl
@[simp] theorem State.onReset_stage : s.onReset.stage = .fresh := rfl

end Fields

/-! ### Reading a register -/

/-- Reading register `y` after a write to register `x`. -/
@[simp] theorem State.reg_setReg (s : State) (x y : Reg) (b : Byte) :
    (s.setReg x b).reg y = if x = y then b else s.reg y := by
  simp [State.reg, State.setReg, Vector.getElem_set, Fin.ext_iff]

/-- Reading register `y` after a write to the flag register. -/
@[simp] theorem State.reg_setFlag (s : State) (y : Reg) (b : Byte) :
    (s.setFlag b).reg y = if flagReg = y then b else s.reg y :=
  State.reg_setReg s flagReg y b

/-- Two states with the same register file read the same. -/
theorem State.reg_congr {s t : State} (h : t.v = s.v) (x : Reg) : t.reg x = s.reg x := by
  simp [State.reg, h]

@[simp] theorem State.reg_advance (s : State) (x : Reg) : s.advance.reg x = s.reg x := rfl

@[simp] theorem State.reg_startStep (s : State) (x : Reg) : s.startStep.reg x = s.reg x := rfl

@[simp] theorem State.reg_setStatus (s : State) (c : Status) (x : Reg) : (s.setStatus c).reg x = s.reg x := rfl

/-- R163: after a result and a flag, the flag register holds the flag and the destination, if another, the result. -/
@[simp] theorem State.reg_resultAndFlag (s : State) (x y : Reg) (r f : Byte) :
    (s.resultAndFlag x r f).reg y = if flagReg = y then f else if x = y then r else s.reg y := by
  simp [State.resultAndFlag]

/-- OR, AND and XOR leave the flag register alone (D10). -/
@[simp] theorem State.logicResult_params (s : State) (x : Reg) (r : Byte) :
    s.logicResult params x r = (s.setReg x r).advance := rfl

end Sys2Proof.Machine
end

