-- ==== Sys2Proof/Laws/Memory.lean ====
section
/-! SUPPORT. The laws of memory: reading after writing, the canonical form, and what a span of reads or writes answers
(spec 20_memory R54, R55, R66). -/

namespace Sys2Proof.Machine

/-! ## One byte -/

theorem Memory.read_cons_pair (m : Memory) (a a' : Nat) (b : Byte) :
    Memory.read ((a, b) :: m) a' = if a' = a then b else Memory.read m a' := rfl

/-- Writing one byte leaves every other byte as it was. -/
theorem Memory.read_write_other (m : Memory) {a a' : Nat} (b : Byte) (h : a' ≠ a) :
    Memory.read (Memory.write m a b) a' = Memory.read m a' := by
  induction m with
  | nil => unfold Memory.write Memory.cons; split <;> simp [Memory.read, h]
  | cons c m ih =>
    obtain ⟨x, y⟩ := c
    unfold Memory.write Memory.cons
    split
    · split <;> simp [Memory.read, h]
    · split
      · next hx => subst hx; split <;> simp [Memory.read, h]
      · simp [Memory.read, ih]

/-- An address below every listed one reads as the background. -/
theorem Memory.read_of_lt {m : Memory} {a : Nat} (h : ∀ c ∈ m, a < c.1) :
    Memory.read m a = Memory.background a := by
  induction m with
  | nil => rfl
  | cons c m ih =>
    obtain ⟨x, y⟩ := c
    have hx : a < x := h (x, y) (by simp)
    rw [Memory.read_cons_pair, if_neg (by omega)]
    exact ih fun c hc => h c (by simp [hc])

/-- In canonical memory a read after a write to the same address gives the byte written. -/
theorem Memory.read_write_same {m : Memory} (hm : m.wf) (a : Nat) (b : Byte) :
    Memory.read (Memory.write m a b) a = b := by
  induction m with
  | nil => unfold Memory.write Memory.cons; split <;> simp_all [Memory.read]
  | cons c m ih =>
    obtain ⟨x, y⟩ := c
    obtain ⟨hs, hc⟩ := hm
    rw [List.pairwise_cons] at hs
    have hm' : Memory.wf m := ⟨hs.2, fun c h => hc c (by simp [h])⟩
    unfold Memory.write Memory.cons
    split
    · next hlt =>
      split
      · next hb =>
        rw [hb]
        apply Memory.read_of_lt
        intro d hd
        rcases List.mem_cons.1 hd with rfl | hd
        · exact hlt
        · have := hs.1 d hd; simp at this ⊢; omega
      · simp [Memory.read]
    · split
      · next hx =>
        subst hx
        split
        · next hb => rw [hb]; exact Memory.read_of_lt fun d hd => hs.1 d hd
        · simp [Memory.read]
      · next hx => rw [Memory.read_cons_pair, if_neg hx]; exact ih hm'

theorem Memory.mem_cons {m : Memory} {a : Nat} {b : Byte} {c : Host.Cell} (h : c ∈ Memory.cons a b m) :
    (c = (a, b) ∧ b ≠ Memory.background a) ∨ c ∈ m := by
  unfold Memory.cons at h
  split at h
  · exact .inr h
  · next hb =>
    rcases List.mem_cons.1 h with h | h
    · exact .inl ⟨h, hb⟩
    · exact .inr h

/-- A listed cell after a write is the written one, and not the background, or was listed before. -/
theorem Memory.mem_write {m : Memory} {a : Nat} {b : Byte} {c : Host.Cell} (h : c ∈ Memory.write m a b) :
    (c = (a, b) ∧ b ≠ Memory.background a) ∨ c ∈ m := by
  induction m with
  | nil => exact Memory.mem_cons h
  | cons d m ih =>
    obtain ⟨x, y⟩ := d
    unfold Memory.write at h
    split at h
    · exact Memory.mem_cons h
    · split at h
      · exact (Memory.mem_cons h).imp_right fun h => by simp [h]
      · rcases List.mem_cons.1 h with h | h
        · simp [h]
        · exact (ih h).imp_right fun h => by simp [h]

theorem Memory.cons_pairwise {m : Memory} {a : Nat} {b : Byte} (hs : m.Pairwise (fun c d => c.1 < d.1))
    (ha : ∀ c ∈ m, a < c.1) : (Memory.cons a b m).Pairwise (fun c d => c.1 < d.1) := by
  unfold Memory.cons
  split
  · exact hs
  · exact List.pairwise_cons.2 ⟨ha, hs⟩

/-- A write inside the address space keeps the canonical form. -/
theorem Memory.write_wf {m : Memory} (hm : m.wf) {a : Nat} (ha : a < memSize) (b : Byte) : (Memory.write m a b).wf := by
  refine ⟨?_, fun c hc => ?_⟩
  · obtain ⟨hs, -⟩ := hm
    induction m with
    | nil => exact Memory.cons_pairwise .nil (by simp)
    | cons d m ih =>
      obtain ⟨x, y⟩ := d
      obtain ⟨h1, h2⟩ := List.pairwise_cons.1 hs
      unfold Memory.write
      split
      · next hlt =>
        refine Memory.cons_pairwise hs fun c hc => ?_
        rcases List.mem_cons.1 hc with rfl | hc
        · exact hlt
        · have := h1 c hc; simp at this ⊢; omega
      · split
        · next hx => subst hx; exact Memory.cons_pairwise h2 h1
        · refine List.pairwise_cons.2 ⟨fun c hc => ?_, ih h2⟩
          rcases Memory.mem_write hc with ⟨rfl, -⟩ | hc
          · simp; omega
          · exact h1 c hc
  · rcases Memory.mem_write hc with ⟨rfl, hb⟩ | hc
    · exact ⟨ha, hb⟩
    · exact hm.2 c hc

/-- Empty memory is canonical, and reads as the reset contents. -/
theorem Memory.nil_wf : Memory.wf [] := ⟨.nil, by simp⟩

/-! ## The access primitives (R54, R55) -/

@[simp] theorem memRead_inRange {m : Memory} {a : Nat} (h : a < memSize) : memRead m a = .ok (Memory.read m a) := if_pos h

@[simp] theorem memRead_outOfRange {m : Memory} {a : Nat} (h : memSize ≤ a) :
    memRead m a = .error (.addressOutOfRange a) := if_neg (by omega)

@[simp] theorem memWrite_inRange {m : Memory} {a : Nat} {b : Byte} (h : a < memSize) :
    memWrite m a b = .ok (Memory.write m a b) := if_pos h

@[simp] theorem memWrite_outOfRange {m : Memory} {a : Nat} {b : Byte} (h : memSize ≤ a) :
    memWrite m a b = .error (.addressOutOfRange a) := if_neg (by omega)

/-- A word whose two bytes exist. -/
theorem memReadWord_inRange {m : Memory} {a : Nat} (h : a + 1 < memSize) :
    memReadWord m a = .ok (Memory.read m a ++ Memory.read m (a + 1)) := by
  simp [memReadWord, memRead_inRange h, memRead_inRange (Nat.lt_of_succ_lt h)]

/-- A word of which a byte does not exist: the first such byte is reported (R55). -/
theorem memReadWord_outOfRange {m : Memory} {a : Nat} (h : memSize ≤ a + 1) :
    memReadWord m a = .error (.addressOutOfRange (max a memSize)) := by
  unfold memReadWord
  by_cases ha : a < memSize
  · rw [memRead_inRange ha, memRead_outOfRange h]
    simp; omega
  · rw [memRead_outOfRange (by omega)]
    simp; omega

/-! ## Spans (R58, R66) -/

/-- A span of reads whose bytes all exist answers them in ascending order. -/
theorem memReadSpan_inRange {m : Memory} {base : Nat} (count : Nat) (h : base + count ≤ memSize) :
    memReadSpan m base count = .ok ((List.range count).map fun k => Memory.read m (base + k)) := by
  induction count generalizing base with
  | zero => rfl
  | succ n ih =>
    rw [memReadSpan, memRead_inRange (by omega), ih (by omega)]
    simp [List.range_succ_eq_map, Nat.add_assoc, Nat.add_comm 1, Function.comp_def]

/-- A span of reads of which a byte does not exist raises at the lowest such address. -/
theorem memReadSpan_outOfRange {m : Memory} {base count : Nat} (hc : 0 < count) (h : memSize < base + count) :
    memReadSpan m base count = .error (.addressOutOfRange (max base memSize)) := by
  induction count generalizing base with
  | zero => omega
  | succ n ih =>
    unfold memReadSpan
    by_cases hb : base < memSize
    · rw [memRead_inRange hb]
      have hn : 0 < n := by omega
      rw [ih hn (by omega)]
      simp; omega
    · rw [memRead_outOfRange (by omega)]
      simp; omega

/-- The memory after the bytes `bs` are written from `base` upward, all of them inside the address space. -/
def Memory.writeSpan (m : Memory) (base : Nat) : List Byte → Memory
  | [] => m
  | b :: bs => Memory.writeSpan (Memory.write m base b) (base + 1) bs

/-- A span of writes whose bytes all exist answers the memory with all of them written. -/
theorem memWriteSpan_inRange {m : Memory} {base : Nat} (bs : List Byte) (h : base + bs.length ≤ memSize) :
    memWriteSpan m base bs = .ok (Memory.writeSpan m base bs) := by
  induction bs generalizing m base with
  | nil => rfl
  | cons b bs ih =>
    simp only [List.length_cons] at h
    rw [memWriteSpan, memWrite_inRange (by omega)]
    exact ih (by omega)

/-- A span of writes of which a byte does not exist raises at the lowest such address. -/
theorem memWriteSpan_outOfRange {m : Memory} {base : Nat} {bs : List Byte} (hc : bs ≠ [])
    (h : memSize < base + bs.length) :
    memWriteSpan m base bs = .error (.addressOutOfRange (max base memSize)) := by
  induction bs generalizing m base with
  | nil => exact absurd rfl hc
  | cons b bs ih =>
    simp only [List.length_cons] at h
    unfold memWriteSpan
    by_cases hb : base < memSize
    · rw [memWrite_inRange hb]
      have hn : bs ≠ [] := by rintro rfl; simp at h; omega
      refine (ih hn (by omega)).trans ?_
      simp; omega
    · rw [memWrite_outOfRange (by omega)]
      simp; omega

/-- Every answer of a span of writes is the memory with all the bytes written, and they all exist. -/
theorem memWriteSpan_ok {m m' : Memory} {base : Nat} {bs : List Byte} (h : memWriteSpan m base bs = .ok m') :
    m' = Memory.writeSpan m base bs ∧ (bs = [] ∨ base + bs.length ≤ memSize) := by
  by_cases hb : bs = []
  · subst hb; simp [memWriteSpan] at h; simp [h, Memory.writeSpan]
  · by_cases hr : base + bs.length ≤ memSize
    · rw [memWriteSpan_inRange bs hr] at h
      exact ⟨(Except.ok.inj h).symm, .inr hr⟩
    · rw [memWriteSpan_outOfRange hb (by omega)] at h
      cases h

/-- A byte outside the written span reads as before. -/
theorem Memory.read_writeSpan_outside (m : Memory) (base : Nat) (bs : List Byte) {a : Nat}
    (h : a < base ∨ base + bs.length ≤ a) : Memory.read (Memory.writeSpan m base bs) a = Memory.read m a := by
  induction bs generalizing m base with
  | nil => rfl
  | cons b bs ih =>
    simp only [List.length_cons] at h
    rw [Memory.writeSpan, ih _ _ (by omega), Memory.read_write_other _ _ (by omega)]

/-- A span of writes inside the address space keeps the canonical form. -/
theorem Memory.writeSpan_wf {m : Memory} (hm : m.wf) {base : Nat} {bs : List Byte} (h : base + bs.length ≤ memSize) :
    (Memory.writeSpan m base bs).wf := by
  induction bs generalizing m base with
  | nil => exact hm
  | cons b bs ih =>
    simp only [List.length_cons] at h
    exact ih (Memory.write_wf hm (by omega) b) (by omega)

/-- In canonical memory byte `k` of the written span reads as the `k`-th byte written. -/
theorem Memory.read_writeSpan_inside {m : Memory} (hm : m.wf) {base : Nat} {bs : List Byte}
    (h : base + bs.length ≤ memSize) {k : Nat} (hk : k < bs.length) :
    Memory.read (Memory.writeSpan m base bs) (base + k) = bs[k] := by
  induction bs generalizing m base k with
  | nil => simp at hk
  | cons b bs ih =>
    simp only [List.length_cons] at h hk
    cases k with
    | zero =>
      rw [Memory.writeSpan, Memory.read_writeSpan_outside _ _ _ (by omega)]
      exact Memory.read_write_same hm base b
    | succ k =>
      have := ih (Memory.write_wf hm (a := base) (by omega) b) (base := base + 1) (by omega) (k := k) (by omega)
      rw [Memory.writeSpan, show base + (k + 1) = base + 1 + k by omega]
      simpa using this

/-- Every answer of a span of writes keeps the canonical form. -/
theorem memWriteSpan_wf {m m' : Memory} (hm : m.wf) {base : Nat} {bs : List Byte}
    (h : memWriteSpan m base bs = .ok m') : m'.wf := by
  obtain ⟨rfl, rfl | hb⟩ := memWriteSpan_ok h
  · exact hm
  · exact Memory.writeSpan_wf hm hb

/-- Bytes placed for a fetch keep the canonical form. -/
theorem placeBytes_wf {m : Memory} (hm : m.wf) (a : Nat) (bs : List Byte) : (placeBytes m a bs).wf := by
  induction bs generalizing m a with
  | nil => exact hm
  | cons b bs ih =>
    unfold placeBytes
    split
    · next h => exact ih (Memory.write_wf hm h b) _
    · exact ih hm _

end Sys2Proof.Machine
end

