-- ==== Sys2Proof/Laws/Ops.lean ====
section
/-! SUPPORT. For each shared operation one lemma that says what it can do: the stack, the end of a raising instruction, the
fetch, the cycle, the next event. -/

namespace Sys2Proof.Machine

/-! ## Fatal errors and the stack -/

@[simp] theorem orRaise_ok (s t : State) : orRaise s (.ok t) = .next t := rfl

@[simp] theorem orRaise_error (s : State) (r : Raise) : orRaise s (.error r) = .next (s.raise r) := rfl

/-- An instruction that may raise ends with its own effect, or with the fatal error taken in the state before it. -/
theorem orRaise_next {s t : State} {r : Except Raise State} (h : orRaise s r = .next t) :
    r = .ok t ∨ ∃ e, r = .error e ∧ t = s.raise e := by
  cases r with
  | ok u => exact .inl (congrArg _ (Host.Outcome.next.inj h))
  | error e => exact .inr ⟨e, rfl, (Host.Outcome.next.inj h).symm⟩

/-- The code a fatal error leaves in FAULT is never NONE. -/
theorem Raise.code_ne_none (r : Raise) : r.code ≠ .none := by cases r <;> simp [Raise.code]

theorem push_ok (s : State) (a : Word) (h : s.sp.val < 16) :
    push s a = .ok { s with stack := s.stack.set s.sp.val a, sp := ⟨s.sp.val + 1, by omega⟩ } := dif_pos h

theorem push_full (s : State) (a : Word) (h : s.sp = 16) : push s a = .error .stackOverflow := by
  rw [push, dif_neg (by rw [h]; decide)]

theorem pop_ok (s : State) (h : 0 < s.sp.val) :
    pop s = .ok (s.stack[s.sp.val - 1], { s with sp := ⟨s.sp.val - 1, by omega⟩ }) := dif_pos h

theorem pop_empty (s : State) (h : s.sp = 0) : pop s = .error .stackUnderflow := by
  rw [pop, dif_neg (by rw [h]; decide)]

/-! ## The cycle -/

/-- A fetch inside the address space answers the big-endian word at PC (R111). -/
theorem fetch_inRange {s : State} (h : s.pc.toNat ≤ 0xFFE) :
    fetch s = .ok (Memory.read s.mem s.pc.toNat ++ Memory.read s.mem (s.pc.toNat + 1)) :=
  memReadWord_inRange (by simp [memSize]; omega)

/-- A fetch at PC above 0xFFE raises; the address reported is the first byte that does not exist (R111). -/
theorem fetch_outOfRange {s : State} (h : 0xFFE < s.pc.toNat) :
    fetch s = .error (.addressOutOfRange (max s.pc.toNat 0x1000)) :=
  memReadWord_outOfRange (by simp [memSize]; omega)

/-- Everything one Step can do (R117): nothing in HALTED, the fetch fault, the instruction the word decodes to, or the
report of an invalid word. -/
theorem cycle_cases (s : State) :
    (s.status = .halted ∧ cycle s = .next s) ∨
    (s.status ≠ .halted ∧ 0xFFE < s.pc.toNat ∧ cycle s = .next (s.startStep.raise (.addressOutOfRange (max s.pc.toNat 0x1000)))) ∨
    (s.status ≠ .halted ∧ s.pc.toNat ≤ 0xFFE ∧ ∃ w, fetch s = .ok w ∧
      ((∃ i, decode w = .ok i ∧ cycle s = exec i s.startStep) ∨
       (∃ e, decode w = .error e ∧ cycle s = .next (s.startStep.invalidOpcode w)))) := by
  by_cases hs : s.status = .halted
  · exact .inl ⟨hs, if_pos hs⟩
  · by_cases hp : s.pc.toNat ≤ 0xFFE
    · refine .inr (.inr ⟨hs, hp, _, fetch_inRange hp, ?_⟩)
      have hc : cycle s = executeWord (Memory.read s.mem s.pc.toNat ++ Memory.read s.mem (s.pc.toNat + 1)) s := by
        rw [cycle, if_neg hs, fetch_inRange hp]
      rw [hc, executeWord]
      cases decode (Memory.read s.mem s.pc.toNat ++ Memory.read s.mem (s.pc.toNat + 1)) with
      | ok i => exact .inl ⟨i, rfl, rfl⟩
      | error e => exact .inr ⟨e, rfl, rfl⟩
    · refine .inr (.inl ⟨hs, by omega, ?_⟩)
      rw [cycle, if_neg hs, fetch_outOfRange (by omega)]

/-! ## The next event -/

theorem step_eq_cycle {s : State} (h : s.schedule = []) : step s = cycle s := by
  simp [step, nextEvent, h]

theorem step_eq_occur {s : State} {e : Event} {rest : List Event} (h : s.schedule = e :: rest) :
    step s = occur e { s with schedule := rest } := by
  simp [step, nextEvent, h]

/-- Load of an image that fits, once and before the first Step, writes MEM (R67, R261). -/
theorem load_fits {s : State} {image : List Byte} (hs : s.stage = .fresh) (h : image.length ≤ 3584) :
    load s image = .next { s with mem := Memory.writeSpan s.mem progBase image, stage := .loaded } := by
  rw [load, hs, memWriteSpan_inRange image (by simp [progBase, memSize]; omega)]

theorem load_tooLarge {s : State} {image : List Byte} (hs : s.stage = .fresh) (h : 3584 < image.length) :
    load s image = .fault .loadError := by
  have hne : image ≠ [] := by rintro rfl; simp at h
  rw [load, hs, memWriteSpan_outOfRange hne (by simp [progBase, memSize]; omega)]

theorem load_loaded {s : State} (image : List Byte) (hs : s.stage = .loaded) :
    load s image = .refused .secondLoad := by
  rw [load, hs]

theorem load_started {s : State} (image : List Byte) (hs : s.stage = .started) :
    load s image = .refused .lateLoad := by
  rw [load, hs]

/-- Everything a Load can answer as a next state (R261). -/
theorem load_next {s t : State} {image : List Byte} (h : load s image = .next t) :
    s.stage = .fresh ∧ image.length ≤ 3584 ∧
      t = { s with mem := Memory.writeSpan s.mem progBase image, stage := .loaded } := by
  cases hs : s.stage with
  | fresh =>
    by_cases hl : image.length ≤ 3584
    · rw [load_fits hs hl] at h
      exact ⟨rfl, hl, (Host.Outcome.next.inj h).symm⟩
    · rw [load_tooLarge hs (by omega)] at h
      cases h
  | loaded => rw [load_loaded image hs] at h; cases h
  | started => rw [load_started image hs] at h; cases h

end Sys2Proof.Machine
end

