-- ==== Sys2Proof/Laws/Instructions.lean ====
section
/-! SUPPORT. For each instruction that may raise, every next state it can answer: the fatal error taken, or its own effect;
the registers that a dump and a load move; the key that AnyPressed finds; a run of the machine taken apart. -/

namespace Sys2Proof.Machine

/-! ## Registers in and out of memory -/

@[simp] theorem bcdDigits_length (b : Byte) : (bcdDigits b).length = 3 := rfl

@[simp] theorem dumpedRegs_length (v : RegFile) (x : Reg) : (dumpedRegs v x).length = x.val + 1 := by
  simp [dumpedRegs]

/-- Byte `k` of a dump is register `k` (R174). -/
theorem dumpedRegs_get (s : State) (x k : Reg) (h : k.val < (dumpedRegs s.v x).length) :
    (dumpedRegs s.v x)[k.val] = s.reg k := by
  simp [dumpedRegs, State.reg]

/-- Register `j` after bytes are loaded from register `k` upward: one of the bytes, or what it was (R175). -/
theorem loadedRegs_get (bs : List Byte) (v : RegFile) (k j : Nat) (hj : j < 16) :
    (loadedRegs v k bs)[j] = if hh : k ≤ j ∧ j < k + bs.length then bs[j - k] else v[j] := by
  induction bs generalizing v k with
  | nil => rw [dif_neg (by simp)]; rfl
  | cons b bs ih =>
    rw [loadedRegs, ih]
    split
    · next hh =>
      rw [dif_pos (by simp only [List.length_cons]; omega), List.getElem_cons, dif_neg (by omega)]
      congr 1
    · next hh =>
      by_cases e : j = k
      · subst e; simp
      · rw [dif_neg (by simp only [List.length_cons]; omega)]
        simp [Ne.symm e]

/-- A span of reads that answers, answers as many bytes as were asked for. -/
theorem memReadSpan_length {m : Memory} {a n : Nat} {bs : List Byte} (h : memReadSpan m a n = .ok bs) :
    bs.length = n := by
  by_cases h0 : n = 0
  · subst h0; simp [memReadSpan] at h; simp [← h]
  · by_cases h1 : a + n ≤ memSize
    · rw [memReadSpan_inRange _ h1] at h; cases h; simp
    · rw [memReadSpan_outOfRange (by omega) (by omega)] at h; cases h

/-! ## Instructions that may raise -/

theorem ret_next {s t : State} (h : exec .ret s = .next t) :
    (∃ e, t = s.raise e) ∨
      ∃ hh : 0 < s.sp.val, t = { s with pc := s.stack[s.sp.val - 1], sp := ⟨s.sp.val - 1, by omega⟩ } := by
  simp only [exec, execRet] at h
  by_cases h0 : 0 < s.sp.val
  · rw [pop_ok s h0] at h; cases h; exact .inr ⟨h0, rfl⟩
  · rw [pop, dif_neg h0] at h; cases h; exact .inl ⟨_, rfl⟩

theorem call_next {nnn : BitVec 12} {s t : State} (h : exec (.call nnn) s = .next t) :
    (∃ e, t = s.raise e) ∨ ∃ hh : s.sp.val < 16, t = { s with
      pc := literal12 nnn, stack := s.stack.set s.sp.val (s.pc + 2#16), sp := ⟨s.sp.val + 1, by omega⟩ } := by
  simp only [exec, execCall] at h
  by_cases h0 : s.sp.val < 16
  · rw [push_ok s _ h0] at h; cases h; exact .inr ⟨h0, rfl⟩
  · rw [push, dif_neg h0] at h; cases h; exact .inl ⟨_, rfl⟩

theorem drw_next {x y : Reg} {n : BitVec 4} {s t : State} (h : exec (.drw x y n) s = .next t) :
    (∃ e, t = s.raise e) ∨ ∃ bytes, memReadSpan s.mem s.i.toNat n.toNat = .ok bytes ∧
      t = ((s.setFB (drawSprite s.fb (s.reg x) (s.reg y) bytes).1).setFlag
        (flagByte (drawSprite s.fb (s.reg x) (s.reg y) bytes).2)).advance := by
  rcases orRaise_next h with h | ⟨e, _, h⟩
  · cases hh : memReadSpan s.mem s.i.toNat n.toNat <;> rw [hh] at h <;> simp [Except.map] at h
    exact .inr ⟨_, rfl, h.symm⟩
  · exact .inl ⟨e, h⟩

theorem ldB_next {x : Reg} {s t : State} (h : exec (.ldB x) s = .next t) :
    (∃ e, t = s.raise e) ∨
      ∃ m, memWriteSpan s.mem s.i.toNat (bcdDigits (s.reg x)) = .ok m ∧ t = (s.setMem m).advance := by
  rcases orRaise_next h with h | ⟨e, _, h⟩
  · cases hh : memWriteSpan s.mem s.i.toNat (bcdDigits (s.reg x)) <;> rw [hh] at h <;> simp [Except.map] at h
    exact .inr ⟨_, rfl, h.symm⟩
  · exact .inl ⟨e, h⟩

theorem ldMemVx_next {x : Reg} {s t : State} (h : exec (.ldMemVx x) s = .next t) :
    (∃ e, t = s.raise e) ∨
      ∃ m, memWriteSpan s.mem s.i.toNat (dumpedRegs s.v x) = .ok m ∧ t = (s.setMem m).advance := by
  rcases orRaise_next h with h | ⟨e, _, h⟩
  · cases hh : memWriteSpan s.mem s.i.toNat (dumpedRegs s.v x) <;> rw [hh] at h <;> simp [Except.map] at h
    exact .inr ⟨_, rfl, h.symm⟩
  · exact .inl ⟨e, h⟩

theorem ldVxMem_next {x : Reg} {s t : State} (h : exec (.ldVxMem x) s = .next t) :
    (∃ e, t = s.raise e) ∨
      ∃ bs, memReadSpan s.mem s.i.toNat (x.val + 1) = .ok bs ∧ t = (s.setRegs (loadedRegs s.v 0 bs)).advance := by
  rcases orRaise_next h with h | ⟨e, _, h⟩
  · cases hh : memReadSpan s.mem s.i.toNat (x.val + 1) <;> rw [hh] at h <;> simp [Except.map] at h
    exact .inr ⟨_, rfl, h.symm⟩
  · exact .inl ⟨e, h⟩

/-! ## Keys -/

theorem mem_keySelect : ∀ k : Key, k ∈ params.keySelect := by decide

/-- AnyPressed finds no key exactly when none is pressed (R206). -/
theorem anyPressed_none {s : State} : anyPressed params s = none ↔ ∀ k, isPressed s k = false := by
  simp [anyPressed, mem_keySelect]

/-! ## Runs -/

/-- A run of `n + 1` steps whose first answers `t` is a run of `n` steps from `t`. -/
theorem core_run_succ {s t : State} (n : Nat) (h : step s = .next t) :
    Sys2Proof.core.run (n + 1) s = Sys2Proof.core.run n t := by
  have h' : Sys2Proof.core.step s = .next t := h
  simp only [Host.Core.run, h']

end Sys2Proof.Machine
end

