-- ==== Sys2Proof/Laws/PerInstr.lean ====
section
/-! SUPPORT. The per-instruction family Pattern: the word of an instruction is a word of its row of the opcode map (spec
30_encoding R84), and the operands that the row reads from the word are the instruction's. -/

namespace Sys2Proof.Laws.Pattern

/-- Some row of R84 is selected by the word of `i`, and reads `i` from it. -/
def Statement (i : Instr) : Prop :=
  ∃ r ∈ opcodeRows, encode i &&& r.mask = r.pattern ∧ r.operands.read (encode i) = i

/-- The common end: a row of the table whose fixed fields and operands are the word's. -/
theorem of_row {i : Instr} (r : OpRow) (hr : r ∈ opcodeRows) (hm : encode i &&& r.mask = r.pattern)
    (ho : r.operands.read (encode i) = i) : Statement i :=
  ⟨r, hr, hm, ho⟩

theorem cls : Statement .cls :=
  of_row ⟨0xFFFF, 0x00E0, .none .cls⟩ (by simp [opcodeRows, contractRows]) (by decide) rfl

theorem ret : Statement .ret :=
  of_row ⟨0xFFFF, 0x00EE, .none .ret⟩ (by simp [opcodeRows, contractRows]) (by decide) rfl

theorem sys (nnn : BitVec 12) : Statement (.sys nnn) :=
  of_row ⟨0xF000, 0x0000, .nnn .sys⟩ (by simp [opcodeRows, contractRows])
    (by simp [encode, and_mask_op, fields_formatA]) (by simp [encode, Operands.read, fields_formatA])

theorem jp (nnn : BitVec 12) : Statement (.jp nnn) :=
  of_row ⟨0xF000, 0x1000, .nnn .jp⟩ (by simp [opcodeRows, contractRows])
    (by simp [encode, and_mask_op, fields_formatA]) (by simp [encode, Operands.read, fields_formatA])

theorem call (nnn : BitVec 12) : Statement (.call nnn) :=
  of_row ⟨0xF000, 0x2000, .nnn .call⟩ (by simp [opcodeRows, contractRows])
    (by simp [encode, and_mask_op, fields_formatA]) (by simp [encode, Operands.read, fields_formatA])

theorem seImm (x : Reg) (nn : Byte) : Statement (.seImm x nn) :=
  of_row ⟨0xF000, 0x3000, .xnn .seImm⟩ (by simp [opcodeRows, contractRows])
    (by simp [encode, and_mask_op, fields_formatI]) (by simp [encode, Operands.read, fields_formatI])

theorem sneImm (x : Reg) (nn : Byte) : Statement (.sneImm x nn) :=
  of_row ⟨0xF000, 0x4000, .xnn .sneImm⟩ (by simp [opcodeRows, contractRows])
    (by simp [encode, and_mask_op, fields_formatI]) (by simp [encode, Operands.read, fields_formatI])

theorem seReg (x y : Reg) : Statement (.seReg x y) :=
  of_row ⟨0xF00F, 0x5000, .xy .seReg⟩ (by simp [opcodeRows, contractRows])
    (by simp [encode, and_mask_op_n, fields_formatR]) (by simp [encode, Operands.read, fields_formatR])

theorem ldImm (x : Reg) (nn : Byte) : Statement (.ldImm x nn) :=
  of_row ⟨0xF000, 0x6000, .xnn .ldImm⟩ (by simp [opcodeRows, contractRows])
    (by simp [encode, and_mask_op, fields_formatI]) (by simp [encode, Operands.read, fields_formatI])

theorem addImm (x : Reg) (nn : Byte) : Statement (.addImm x nn) :=
  of_row ⟨0xF000, 0x7000, .xnn .addImm⟩ (by simp [opcodeRows, contractRows])
    (by simp [encode, and_mask_op, fields_formatI]) (by simp [encode, Operands.read, fields_formatI])

theorem ldReg (x y : Reg) : Statement (.ldReg x y) :=
  of_row ⟨0xF00F, 0x8000, .xy .ldReg⟩ (by simp [opcodeRows, contractRows])
    (by simp [encode, and_mask_op_n, fields_formatR]) (by simp [encode, Operands.read, fields_formatR])

theorem orReg (x y : Reg) : Statement (.orReg x y) :=
  of_row ⟨0xF00F, 0x8001, .xy .orReg⟩ (by simp [opcodeRows, contractRows])
    (by simp [encode, and_mask_op_n, fields_formatR]) (by simp [encode, Operands.read, fields_formatR])

theorem andReg (x y : Reg) : Statement (.andReg x y) :=
  of_row ⟨0xF00F, 0x8002, .xy .andReg⟩ (by simp [opcodeRows, contractRows])
    (by simp [encode, and_mask_op_n, fields_formatR]) (by simp [encode, Operands.read, fields_formatR])

theorem xorReg (x y : Reg) : Statement (.xorReg x y) :=
  of_row ⟨0xF00F, 0x8003, .xy .xorReg⟩ (by simp [opcodeRows, contractRows])
    (by simp [encode, and_mask_op_n, fields_formatR]) (by simp [encode, Operands.read, fields_formatR])

theorem addReg (x y : Reg) : Statement (.addReg x y) :=
  of_row ⟨0xF00F, 0x8004, .xy .addReg⟩ (by simp [opcodeRows, contractRows])
    (by simp [encode, and_mask_op_n, fields_formatR]) (by simp [encode, Operands.read, fields_formatR])

theorem subReg (x y : Reg) : Statement (.subReg x y) :=
  of_row ⟨0xF00F, 0x8005, .xy .subReg⟩ (by simp [opcodeRows, contractRows])
    (by simp [encode, and_mask_op_n, fields_formatR]) (by simp [encode, Operands.read, fields_formatR])

theorem shr (x y : Reg) : Statement (.shr x y) :=
  of_row ⟨0xF00F, 0x8006, .xy .shr⟩ (by simp [opcodeRows, contractRows])
    (by simp [encode, and_mask_op_n, fields_formatR]) (by simp [encode, Operands.read, fields_formatR])

theorem subn (x y : Reg) : Statement (.subn x y) :=
  of_row ⟨0xF00F, 0x8007, .xy .subn⟩ (by simp [opcodeRows, contractRows])
    (by simp [encode, and_mask_op_n, fields_formatR]) (by simp [encode, Operands.read, fields_formatR])

theorem shl (x y : Reg) : Statement (.shl x y) :=
  of_row ⟨0xF00F, 0x800E, .xy .shl⟩ (by simp [opcodeRows, contractRows])
    (by simp [encode, and_mask_op_n, fields_formatR]) (by simp [encode, Operands.read, fields_formatR])

theorem sneReg (x y : Reg) : Statement (.sneReg x y) :=
  of_row ⟨0xF00F, 0x9000, .xy .sneReg⟩ (by simp [opcodeRows, contractRows])
    (by simp [encode, and_mask_op_n, fields_formatR]) (by simp [encode, Operands.read, fields_formatR])

theorem ldI (nnn : BitVec 12) : Statement (.ldI nnn) :=
  of_row ⟨0xF000, 0xA000, .nnn .ldI⟩ (by simp [opcodeRows, contractRows])
    (by simp [encode, and_mask_op, fields_formatA]) (by simp [encode, Operands.read, fields_formatA])

theorem jpV0 (nnn : BitVec 12) : Statement (.jpV0 nnn) :=
  of_row ⟨0xF000, 0xB000, .nnn .jpV0⟩ (by simp [opcodeRows, contractRows])
    (by simp [encode, and_mask_op, fields_formatA]) (by simp [encode, Operands.read, fields_formatA])

theorem rnd (x : Reg) (nn : Byte) : Statement (.rnd x nn) :=
  of_row ⟨0xF000, 0xC000, .xnn .rnd⟩ (by simp [opcodeRows, contractRows])
    (by simp [encode, and_mask_op, fields_formatI]) (by simp [encode, Operands.read, fields_formatI])

theorem drw (x y : Reg) (n : BitVec 4) : Statement (.drw x y n) :=
  of_row ⟨0xF000, 0xD000, .xyn .drw⟩ (by simp [opcodeRows, contractRows])
    (by simp [encode, and_mask_op, fields_formatR]) (by simp [encode, Operands.read, fields_formatR])

theorem skp (x : Reg) : Statement (.skp x) :=
  of_row ⟨0xF0FF, 0xE09E, .x .skp⟩ (by simp [opcodeRows, contractRows])
    (by simp [encode, and_mask_op_nn, fields_formatI]) (by simp [encode, Operands.read, fields_formatI])

theorem sknp (x : Reg) : Statement (.sknp x) :=
  of_row ⟨0xF0FF, 0xE0A1, .x .sknp⟩ (by simp [opcodeRows, contractRows])
    (by simp [encode, and_mask_op_nn, fields_formatI]) (by simp [encode, Operands.read, fields_formatI])

theorem ldVxDT (x : Reg) : Statement (.ldVxDT x) :=
  of_row ⟨0xF0FF, 0xF007, .x .ldVxDT⟩ (by simp [opcodeRows, contractRows])
    (by simp [encode, and_mask_op_nn, fields_formatI]) (by simp [encode, Operands.read, fields_formatI])

theorem ldVxK (x : Reg) : Statement (.ldVxK x) :=
  of_row ⟨0xF0FF, 0xF00A, .x .ldVxK⟩ (by simp [opcodeRows, contractRows])
    (by simp [encode, and_mask_op_nn, fields_formatI]) (by simp [encode, Operands.read, fields_formatI])

theorem ldDTVx (x : Reg) : Statement (.ldDTVx x) :=
  of_row ⟨0xF0FF, 0xF015, .x .ldDTVx⟩ (by simp [opcodeRows, contractRows])
    (by simp [encode, and_mask_op_nn, fields_formatI]) (by simp [encode, Operands.read, fields_formatI])

theorem ldSTVx (x : Reg) : Statement (.ldSTVx x) :=
  of_row ⟨0xF0FF, 0xF018, .x .ldSTVx⟩ (by simp [opcodeRows, contractRows])
    (by simp [encode, and_mask_op_nn, fields_formatI]) (by simp [encode, Operands.read, fields_formatI])

theorem addI (x : Reg) : Statement (.addI x) :=
  of_row ⟨0xF0FF, 0xF01E, .x .addI⟩ (by simp [opcodeRows, contractRows])
    (by simp [encode, and_mask_op_nn, fields_formatI]) (by simp [encode, Operands.read, fields_formatI])

theorem ldF (x : Reg) : Statement (.ldF x) :=
  of_row ⟨0xF0FF, 0xF029, .x .ldF⟩ (by simp [opcodeRows, contractRows])
    (by simp [encode, and_mask_op_nn, fields_formatI]) (by simp [encode, Operands.read, fields_formatI])

theorem ldB (x : Reg) : Statement (.ldB x) :=
  of_row ⟨0xF0FF, 0xF033, .x .ldB⟩ (by simp [opcodeRows, contractRows])
    (by simp [encode, and_mask_op_nn, fields_formatI]) (by simp [encode, Operands.read, fields_formatI])

theorem ldMemVx (x : Reg) : Statement (.ldMemVx x) :=
  of_row ⟨0xF0FF, 0xF055, .x .ldMemVx⟩ (by simp [opcodeRows, contractRows])
    (by simp [encode, and_mask_op_nn, fields_formatI]) (by simp [encode, Operands.read, fields_formatI])

theorem ldVxMem (x : Reg) : Statement (.ldVxMem x) :=
  of_row ⟨0xF0FF, 0xF065, .x .ldVxMem⟩ (by simp [opcodeRows, contractRows])
    (by simp [encode, and_mask_op_nn, fields_formatI]) (by simp [encode, Operands.read, fields_formatI])

end Sys2Proof.Laws.Pattern
end

