-- ==== Sys2Proof/Tests/Slice0.lean ====
section
/-! SUPPORT. Tests: the WellFormed smoke test, a word of each instruction written out from spec/30_encoding R84, one step of
each instruction on the vectors of spec/95_test_vectors, and for each statement a state that meets its hypotheses. -/

set_option autoImplicit false

namespace Sys2Proof.Tests

open Sys2Proof.Machine

/-! ## Helpers -/

/-- The state after reset with some registers set. -/
def regs (l : List (Reg × Byte)) : State := l.foldl (fun s p => s.setReg p.1 p.2) State.reset

/-- `s` with the word `w` at `pc`, where the next Step fetches. -/
def place (pc w : Word) (s : State) : State := withWordAtPC { s with pc := pc } w

/-- `s` with the bytes `bs` from `a` upward. -/
def bytes (a : Nat) (bs : List Byte) (s : State) : State := { s with mem := placeBytes s.mem a bs }

/-- What `f` says of the state after one step, if there is one. -/
def after {α : Type} (s : State) (f : State → α) : Option α :=
  match step s with
  | .next t => some (f t)
  | _ => none

/-- What `f` says of the state after `i`, if there is one. -/
def afterExec {α : Type} (i : Instr) (s : State) (f : State → α) : Option α :=
  match exec i s with
  | .next t => some (f t)
  | _ => none

/-- The state after one cycle of the engine, if there is one. -/
def afterCycle (s : State) : Option State :=
  match cycle s with
  | .next t => some t
  | _ => none

/-! ## WellFormed -/

/-- 00E0 is CLS, not SYS (R85, tie-break (a)). -/
theorem test_ill_formed_sys_cls :
    ¬WellFormed (.sys 0x0E0#12) := by decide

/-- 00EE is RET, not SYS (R85, tie-break (a)). -/
theorem test_ill_formed_sys_ret :
    ¬WellFormed (.sys 0x0EE#12) := by decide

theorem test_well_formed_sys :
    WellFormed (.sys 0x0E1#12) ∧ WellFormed (.sys 0xFFF#12) := by decide

/-- The parameter values are admissible (R4, R51, R52, R206). -/
theorem test_config_wf :
    params.wf := by decide

/-! ## Decoding: a word of each instruction, its bits written out from R84 -/

theorem test_decode_cls :
    decode 0b0000000011100000#16 = .ok .cls := by decide

theorem test_decode_ret :
    decode 0b0000000011101110#16 = .ok .ret := by decide

theorem test_decode_sys :
    decode 0b0000000100100011#16 = .ok (.sys 0x123#12) := by decide

theorem test_decode_jp :
    decode 0b0001001000000100#16 = .ok (.jp 0x204#12) := by decide

theorem test_decode_call :
    decode 0b0010001011110000#16 = .ok (.call 0x2F0#12) := by decide

theorem test_decode_se_imm :
    decode 0b0011000111111110#16 = .ok (.seImm 1 0xFE#8) := by decide

theorem test_decode_sne_imm :
    decode 0b0100001000010001#16 = .ok (.sneImm 2 0x11#8) := by decide

theorem test_decode_se_reg :
    decode 0b0101001101000000#16 = .ok (.seReg 3 4) := by decide

theorem test_decode_ld_imm :
    decode 0b0110101000111100#16 = .ok (.ldImm 10 0x3C#8) := by decide

theorem test_decode_add_imm :
    decode 0b0111000111111111#16 = .ok (.addImm 1 0xFF#8) := by decide

theorem test_decode_ld_reg :
    decode 0b1000000100100000#16 = .ok (.ldReg 1 2) := by decide

theorem test_decode_or :
    decode 0b1000000100100001#16 = .ok (.orReg 1 2) := by decide

theorem test_decode_and :
    decode 0b1000000100100010#16 = .ok (.andReg 1 2) := by decide

theorem test_decode_xor :
    decode 0b1000000100100011#16 = .ok (.xorReg 1 2) := by decide

theorem test_decode_add_reg :
    decode 0b1000000100100100#16 = .ok (.addReg 1 2) := by decide

theorem test_decode_sub :
    decode 0b1000000100100101#16 = .ok (.subReg 1 2) := by decide

theorem test_decode_shr :
    decode 0b1000000100100110#16 = .ok (.shr 1 2) := by decide

theorem test_decode_subn :
    decode 0b1000000100100111#16 = .ok (.subn 1 2) := by decide

theorem test_decode_shl :
    decode 0b1000000100101110#16 = .ok (.shl 1 2) := by decide

theorem test_decode_sne_reg :
    decode 0b1001001101000000#16 = .ok (.sneReg 3 4) := by decide

theorem test_decode_ld_i :
    decode 0b1010001100000001#16 = .ok (.ldI 0x301#12) := by decide

theorem test_decode_jp_v0 :
    decode 0b1011001100000000#16 = .ok (.jpV0 0x300#12) := by decide

theorem test_decode_rnd :
    decode 0b1100001110100101#16 = .ok (.rnd 3 0xA5#8) := by decide

theorem test_decode_drw :
    decode 0b1101000100100101#16 = .ok (.drw 1 2 5#4) := by decide

theorem test_decode_skp :
    decode 0b1110001110011110#16 = .ok (.skp 3) := by decide

theorem test_decode_sknp :
    decode 0b1110110010100001#16 = .ok (.sknp 12) := by decide

theorem test_decode_ld_vx_dt :
    decode 0b1111010000000111#16 = .ok (.ldVxDT 4) := by decide

theorem test_decode_ld_vx_k :
    decode 0b1111001100001010#16 = .ok (.ldVxK 3) := by decide

theorem test_decode_ld_dt_vx :
    decode 0b1111001100010101#16 = .ok (.ldDTVx 3) := by decide

theorem test_decode_ld_st_vx :
    decode 0b1111000000011000#16 = .ok (.ldSTVx 0) := by decide

theorem test_decode_add_i :
    decode 0b1111001000011110#16 = .ok (.addI 2) := by decide

theorem test_decode_ld_f :
    decode 0b1111000000101001#16 = .ok (.ldF 0) := by decide

theorem test_decode_ld_b :
    decode 0b1111010100110011#16 = .ok (.ldB 5) := by decide

theorem test_decode_ld_mem_vx :
    decode 0b1111101001010101#16 = .ok (.ldMemVx 10) := by decide

theorem test_decode_ld_vx_mem :
    decode 0b1111001001100101#16 = .ok (.ldVxMem 2) := by decide

/-- Vectors C-6 to C-10. -/
theorem test_decode_invalid :
    decode 0x5121#16 = .error .family5 ∧ decode 0x812F#16 = .error .family8 ∧ decode 0x9AB1#16 = .error .family9 ∧
      decode 0xE19F#16 = .error .familyE ∧ decode 0xF1FF#16 = .error .familyF := by decide

/-- Vectors C-11, C-12. -/
theorem test_decode_other_0nnn :
    decode 0x00E1#16 = .ok (.sys 0x0E1#12) ∧ decode 0x00FE#16 = .ok (.sys 0x0FE#12) := by decide

/-- High byte first (R80, vector C-1). -/
theorem test_decode_bytes :
    decodeBytes [0x8A#8, 0xB4#8, 0x55#8] = .ok (.addReg 10 11, [0x55#8]) ∧ decodeBytes [0x8A#8] = .error .truncated := by decide

theorem test_decode_table_word :
    decodeTableWord 16 0xD125 = some (.drw 1 2 5#4) ∧ decodeTableWord 16 0xF1FF = none := by decide

/-! ## Steps: the vectors of 95_test_vectors -/

/-- D-1 and R192: pixels at the corners of FB are cleared; VF is not written. -/
theorem test_step_cls :
    after { (place 0x0200#16 0x00E0#16 State.reset) with fb := Vector.replicate 32 (Vector.replicate 64 true) }
      (fun t => (t.pixelAt 0 0, t.pixelAt 63 0, t.pixelAt 63 31, t.reg 15, t.pc)) = some (false, false, false, 0#8, 0x0202#16) := by decide

/-- F-11. -/
theorem test_step_ret_last_in_first_out :
    after { (place 0x0200#16 0x00EE#16 State.reset) with sp := 2, stack := (Vector.replicate 16 0#16).set 0 0x0206#16 |>.set 1 0x0310#16 }
      (fun t => (t.pc, t.sp)) = some (0x0310#16, 1) := by decide

/-- F-10. -/
theorem test_step_ret_underflow :
    after (place 0x0200#16 0x00EE#16 State.reset)
      (fun t => (t.fault, t.status, t.pc, t.sp)) = some (.stackUnderflow, .halted, 0x0200#16, 0) := by decide

/-- C-4. -/
theorem test_step_sys :
    after (place 0x0250#16 0x0123#16 State.reset)
      (fun t => (t.reports, t.invop, t.pc, t.status)) = some ([.invalidOpcode 0x0250#16 0x0123#16], true, 0x0252#16, .running) := by decide

/-- F-1. -/
theorem test_step_jp :
    after (place 0x0200#16 0x1204#16 State.reset)
      (fun t => t.pc) = some 0x0204#16 := by decide

/-- F-4: an odd target in the reserved region is legal. -/
theorem test_step_jp_odd :
    after (place 0x0200#16 0x1001#16 State.reset)
      (fun t => (t.pc, t.status)) = some (0x0001#16, .running) := by decide

/-- F-6: the 16th entry is accepted. -/
theorem test_step_call_sixteenth :
    after { (place 0x0300#16 0x2400#16 State.reset) with sp := 15 }
      (fun t => (t.stack[15], t.sp, t.pc, t.status)) = some (0x0302#16, 16, 0x0400#16, .running) := by decide

/-- F-7. -/
theorem test_step_call_overflow :
    after { (place 0x0300#16 0x2400#16 State.reset) with sp := 16 }
      (fun t => (t.fault, t.status, t.pc, t.sp)) = some (.stackOverflow, .halted, 0x0300#16, 16) := by decide

/-- F-12. -/
theorem test_step_se_imm_skips :
    after (place 0x0208#16 0x3100#16 State.reset)
      (fun t => t.pc) = some 0x020C#16 := by decide

/-- F-25: a skip from the last word is held, the next Step faults. -/
theorem test_step_se_imm_last_word :
    after (place 0x0FFE#16 0x3000#16 State.reset)
      (fun t => (t.pc, after t fun u => (u.pc, u.reports))) = some (0x1002#16, some (0x1002#16, [.fatal (.addressOutOfRange 0x1002)])) := by decide

/-- F-14. -/
theorem test_step_sne_imm_skips :
    after (place 0x0300#16 0x4211#16 (regs [(2, 0x10#8)]))
      (fun t => t.pc) = some 0x0304#16 := by decide

/-- F-15. -/
theorem test_step_sne_imm_advances :
    after (place 0x0300#16 0x4210#16 (regs [(2, 0x10#8)]))
      (fun t => t.pc) = some 0x0302#16 := by decide

/-- F-16. -/
theorem test_step_se_reg_skips :
    after (place 0x0210#16 0x5340#16 (regs [(3, 0x07#8), (4, 0x07#8)]))
      (fun t => t.pc) = some 0x0214#16 := by decide

/-- F-17. -/
theorem test_step_se_reg_advances :
    after (place 0x0210#16 0x5340#16 (regs [(3, 0x07#8), (4, 0x08#8)]))
      (fun t => t.pc) = some 0x0212#16 := by decide

/-- F-19. -/
theorem test_step_sne_reg_skips :
    after (place 0x0210#16 0x9340#16 (regs [(3, 0x07#8), (4, 0x08#8)]))
      (fun t => t.pc) = some 0x0214#16 := by decide

/-- F-21: x = y never skips. -/
theorem test_step_sne_reg_advances :
    after (place 0x0200#16 0x9330#16 (regs [(3, 0x99#8)]))
      (fun t => t.pc) = some 0x0202#16 := by decide

/-- F-22. -/
theorem test_step_jp_v0_not_masked :
    after (place 0x0200#16 0xBFFF#16 (regs [(0, 0xFF#8)]))
      (fun t => t.pc) = some 0x10FE#16 := by decide

/-- F-24: register 0 is added, whatever the x nibble. -/
theorem test_step_jp_v0_register_0 :
    after (place 0x0200#16 0xB300#16 (regs [(0, 0x02#8), (3, 0x50#8)]))
      (fun t => t.pc) = some 0x0302#16 := by decide

/-- C-2: an odd PC. -/
theorem test_step_ld_imm_odd_pc :
    after (place 0x0201#16 0x6A3C#16 State.reset)
      (fun t => (t.reg 10, t.pc)) = some (0x3C#8, 0x0203#16) := by decide

/-- A-2: VF is an ordinary destination. -/
theorem test_step_ld_imm_vf :
    after (place 0x0200#16 0x6FAB#16 State.reset)
      (fun t => t.reg 15) = some 0xAB#8 := by decide

/-- A-4: no carry flag. -/
theorem test_step_add_imm_wraps :
    after (place 0x0200#16 0x7102#16 (regs [(1, 0xFF#8)]))
      (fun t => (t.reg 1, t.reg 15)) = some (0x01#8, 0x00#8) := by decide

/-- A-6: the wrapped sum, not a carry. -/
theorem test_step_add_imm_vf :
    after (place 0x0200#16 0x7F01#16 (regs [(15, 0xFF#8)]))
      (fun t => t.reg 15) = some 0x00#8 := by decide

/-- A-7. -/
theorem test_step_ld_reg :
    after (place 0x0200#16 0x8120#16 (regs [(2, 0x7E#8)]))
      (fun t => (t.reg 1, t.reg 2, t.reg 15)) = some (0x7E#8, 0x7E#8, 0#8) := by decide

/-- A-8. -/
theorem test_step_or :
    after (place 0x0200#16 0x8011#16 (regs [(0, 0xF0#8), (1, 0x0F#8), (15, 0x55#8)]))
      (fun t => (t.reg 0, t.reg 15)) = some (0xFF#8, 0x55#8) := by decide

/-- A-9. -/
theorem test_step_and :
    after (place 0x0200#16 0x8012#16 (regs [(0, 0xF3#8), (1, 0x3C#8), (15, 0x55#8)]))
      (fun t => (t.reg 0, t.reg 15)) = some (0x30#8, 0x55#8) := by decide

/-- A-10. -/
theorem test_step_xor :
    after (place 0x0200#16 0x8013#16 (regs [(0, 0xF3#8), (1, 0x3C#8), (15, 0x55#8)]))
      (fun t => (t.reg 0, t.reg 15)) = some (0xCF#8, 0x55#8) := by decide

/-- A-11. -/
theorem test_step_xor_itself :
    after (place 0x0200#16 0x8223#16 (regs [(2, 0x5A#8)]))
      (fun t => t.reg 2) = some 0x00#8 := by decide

/-- S8-1a. -/
theorem test_step_add_reg_carry :
    after (place 0x0200#16 0x8014#16 (regs [(0, 0xFF#8), (1, 0x01#8)]))
      (fun t => (t.reg 0, t.reg 15)) = some (0x00#8, 0x01#8) := by decide

/-- A-16: the flag is written last. -/
theorem test_step_add_reg_vf :
    after (place 0x0200#16 0x8F14#16 (regs [(15, 0x03#8), (1, 0x04#8)]))
      (fun t => t.reg 15) = some 0x00#8 := by decide

/-- S8-2b. -/
theorem test_step_sub_borrow :
    after (place 0x0200#16 0x8015#16 (regs [(0, 0x03#8), (1, 0x05#8)]))
      (fun t => (t.reg 0, t.reg 15)) = some (0xFE#8, 0x00#8) := by decide

/-- A-19: equal operands do not borrow. -/
theorem test_step_sub_equal :
    after (place 0x0200#16 0x8015#16 (regs [(0, 0x07#8), (1, 0x07#8)]))
      (fun t => (t.reg 0, t.reg 15)) = some (0x00#8, 0x01#8) := by decide

/-- A-24. -/
theorem test_step_subn :
    after (place 0x0200#16 0x8017#16 (regs [(0, 0x03#8), (1, 0x05#8)]))
      (fun t => (t.reg 0, t.reg 15)) = some (0x02#8, 0x01#8) := by decide

/-- A-25. -/
theorem test_step_subn_borrow :
    after (place 0x0200#16 0x8017#16 (regs [(0, 0x05#8), (1, 0x03#8)]))
      (fun t => (t.reg 0, t.reg 15)) = some (0xFE#8, 0x00#8) := by decide

/-- A-27. -/
theorem test_step_shr_ignores_vy :
    after (place 0x0200#16 0x84A6#16 (regs [(4, 0x05#8), (10, 0xF0#8)]))
      (fun t => (t.reg 4, t.reg 15, t.reg 10)) = some (0x02#8, 0x01#8, 0xF0#8) := by decide

/-- A-31: zero enters bit 7. -/
theorem test_step_shr_logical :
    after (place 0x0200#16 0x8406#16 (regs [(4, 0xFF#8)]))
      (fun t => (t.reg 4, t.reg 15)) = some (0x7F#8, 0x01#8) := by decide

/-- A-34. -/
theorem test_step_shl :
    after (place 0x0200#16 0x840E#16 (regs [(4, 0x81#8)]))
      (fun t => (t.reg 4, t.reg 15)) = some (0x02#8, 0x01#8) := by decide

/-- A-37. -/
theorem test_step_shl_vf :
    after (place 0x0200#16 0x8F0E#16 (regs [(15, 0x81#8)]))
      (fun t => t.reg 15) = some 0x01#8 := by decide

/-- A-39: whatever byte is drawn. -/
theorem test_step_rnd_mask_zero :
    after (place 0x0200#16 0xC300#16 (regs [(3, 0x77#8)]))
      (fun t => (t.reg 3, t.draws, t.pc)) = some (0x00#8, 1, 0x0202#16) := by
  show some (Config.freeByte 0 &&& 0x00#8, 1, 0x0202#16) = _
  simp

/-- M-2. -/
theorem test_step_ld_i :
    after (place 0x0200#16 0xAFFF#16 State.reset)
      (fun t => t.i) = some 0x0FFF#16 := by decide

/-- M-4. -/
theorem test_step_add_i_not_masked :
    after ((place 0x0200#16 0xF21E#16 (regs [(2, 0x01#8)])).setI 0x0FFF#16)
      (fun t => (t.i, t.reg 15)) = some (0x1000#16, 0x00#8) := by decide

/-- M-5. -/
theorem test_step_add_i_wraps :
    after ((place 0x0200#16 0xF21E#16 (regs [(2, 0x01#8)])).setI 0xFFFF#16)
      (fun t => t.i) = some 0x0000#16 := by decide

/-- M-7: the low nibble alone counts. -/
theorem test_step_ld_f :
    after (place 0x0200#16 0xF029#16 (regs [(0, 0xAF#8)]))
      (fun t => t.i) = some 0x004B#16 := by decide

/-- M-11. -/
theorem test_step_ld_b_highest :
    after ((place 0x0200#16 0xF533#16 (regs [(5, 0xC7#8)])).setI 0x0FFD#16)
      (fun t => (Memory.read t.mem 0xFFD, Memory.read t.mem 0xFFE, Memory.read t.mem 0xFFF, t.i)) = some (1#8, 9#8, 9#8, 0x0FFD#16) := by decide

/-- M-12. -/
theorem test_step_ld_b_fault :
    after ((place 0x0200#16 0xF533#16 (regs [(5, 0x7B#8)])).setI 0x0FFE#16)
      (fun t => (t.fault, t.status, t.reports, Memory.read t.mem 0xFFE, t.pc)) = some (.addressOutOfRange, .halted, [.fatal (.addressOutOfRange 0x1000)], 0#8, 0x0200#16) := by decide

/-- M-14. -/
theorem test_step_ld_mem_vx :
    after ((place 0x0200#16 0xF255#16 (regs [(0, 0x11#8), (1, 0x22#8), (2, 0x33#8), (3, 0x44#8)])).setI 0x0400#16)
      (fun t => (Memory.read t.mem 0x400, Memory.read t.mem 0x402, Memory.read t.mem 0x403, t.i)) = some (0x11#8, 0x33#8, 0x00#8, 0x0400#16) := by decide

/-- M-19: all or nothing. -/
theorem test_step_ld_mem_vx_fault :
    after ((place 0x0200#16 0xF155#16 (regs [(0, 0x01#8), (1, 0x02#8)])).setI 0x0FFF#16)
      (fun t => (t.fault, Memory.read t.mem 0xFFF, t.reports)) = some (.addressOutOfRange, 0#8, [.fatal (.addressOutOfRange 0x1000)]) := by decide

/-- M-20. -/
theorem test_step_ld_vx_mem :
    after (bytes 0x300 [0x02#8, 0x05#8, 0x04#8, 0x09#8] ((place 0x0200#16 0xF265#16 (regs [(3, 0x77#8)])).setI 0x0300#16))
      (fun t => (t.reg 0, t.reg 1, t.reg 2, t.reg 3, t.i)) = some (2#8, 5#8, 4#8, 0x77#8, 0x0300#16) := by decide

/-- M-23: the glyph of 0, in the reserved region. -/
theorem test_step_ld_vx_mem_glyph :
    after ((place 0x0200#16 0xF465#16 State.reset).setI 0x0000#16)
      (fun t => (t.reg 0, t.reg 1, t.reg 2, t.reg 3, t.reg 4)) = some (0xF0#8, 0x90#8, 0x90#8, 0x90#8, 0xF0#8) := by decide

/-- D-4. -/
theorem test_step_drw_wraps :
    after (bytes 0x300 [0xFF#8] ((place 0x0200#16 0xD121#16 (regs [(1, 0x3C#8)])).setI 0x0300#16))
      (fun t => (t.pixelAt 60 0, t.pixelAt 63 0, t.pixelAt 3 0, t.pixelAt 4 0, t.pixelAt 59 0, t.reg 15)) = some (true, true, true, false, false, 0#8) := by decide

/-- D-10, the first draw. -/
theorem test_step_drw_collision :
    after { (bytes 0x300 [0xFF#8] ((place 0x0200#16 0xD121#16 State.reset).setI 0x0300#16)) with fb := fbToggle fbClear 0 0 }
      (fun t => (t.pixelAt 0 0, t.pixelAt 1 0, t.pixelAt 7 0, t.pixelAt 8 0, t.reg 15)) = some (false, true, true, false, 1#8) := by decide

/-- K-3: the high nibble of V3 is ignored. -/
theorem test_step_skp :
    after { (place 0x0200#16 0xE39E#16 (regs [(3, 0x1B#8)])) with key := Vector.replicate 16 false |>.set 11 true }
      (fun t => t.pc) = some 0x0204#16 := by decide

/-- K-4. -/
theorem test_step_skp_not_pressed :
    after { (place 0x0200#16 0xE39E#16 (regs [(3, 0xFF#8)])) with key := (Vector.replicate 16 true).set 15 false }
      (fun t => t.pc) = some 0x0202#16 := by decide

/-- K-5. -/
theorem test_step_sknp :
    after (place 0x0200#16 0xE3A1#16 (regs [(3, 0x0B#8)]))
      (fun t => t.pc) = some 0x0204#16 := by decide

/-- K-6. -/
theorem test_step_sknp_pressed :
    after { (place 0x0200#16 0xE3A1#16 (regs [(3, 0x0B#8)])) with key := Vector.replicate 16 false |>.set 11 true }
      (fun t => t.pc) = some 0x0202#16 := by decide

/-- K-12. -/
theorem test_step_ld_vx_dt :
    after { (place 0x0200#16 0xF407#16 State.reset) with dt := 0x2A#8 }
      (fun t => (t.reg 4, t.dt)) = some (0x2A#8, 0x2A#8) := by decide

/-- K-7. -/
theorem test_step_ld_vx_k_waits :
    after (place 0x0200#16 0xF30A#16 (regs [(3, 0x77#8)]))
      (fun t => (t.pc, t.reg 3, t.status)) = some (0x0200#16, 0x77#8, .awaitingKey) := by decide

/-- K-8, from a Step that waited. -/
theorem test_step_ld_vx_k_lowest :
    after { (place 0x0200#16 0xF30A#16 State.reset) with key := Vector.replicate 16 false |>.set 4 true |>.set 9 true, status := .awaitingKey }
      (fun t => (t.reg 3, t.pc, t.status)) = some (0x04#8, 0x0202#16, .running) := by decide

/-- K-13. -/
theorem test_step_ld_dt_vx :
    after (place 0x0200#16 0xF315#16 (regs [(3, 0x3C#8)]))
      (fun t => t.dt) = some 0x3C#8 := by decide

/-- K-15. -/
theorem test_step_ld_st_vx :
    after (place 0x0200#16 0xF018#16 (regs [(0, 0x05#8)]))
      (fun t => (t.st, t.soundActive)) = some (0x05#8, true) := by decide

/-! ## The cycle and the events -/

/-- C-3. -/
theorem test_step_invalid :
    after (place 0x0300#16 0x8129#16 State.reset)
      (fun t => (t.reports, t.invop, t.pc, t.status)) = some ([.invalidOpcode 0x0300#16 0x8129#16], true, 0x0302#16, .running) := by decide

/-- C-13. -/
theorem test_step_last_word :
    after (place 0x0FFE#16 0x6007#16 State.reset)
      (fun t => (t.reg 0, t.pc, t.status)) = some (7#8, 0x1000#16, .running) := by decide

/-- C-15. -/
theorem test_step_fetch_fault :
    after { State.reset with pc := 0x0FFF#16 }
      (fun t => (t.fault, t.status, t.pc, t.reports)) = some (.addressOutOfRange, .halted, 0x0FFF#16, [.fatal (.addressOutOfRange 0x1000)]) := by decide

/-- C-5: memory without an image holds SYS 0. -/
theorem test_step_from_reset :
    after State.reset
      (fun t => (t.reports, t.invop, t.pc)) = some ([.invalidOpcode 0x0200#16 0x0000#16], true, 0x0202#16) := by decide

/-- C-16: a Step in HALTED changes nothing. -/
theorem test_step_halted :
    step { State.reset with status := .halted, fault := .stackUnderflow } =
      .next { State.reset with status := .halted, fault := .stackUnderflow } := rfl

/-- T-1. -/
theorem test_tick :
    after { State.reset with dt := 3#8, st := 1#8, schedule := [.tick] }
      (fun t => (t.dt, t.st, t.soundActive, t.schedule)) = some (2#8, 0#8, false, []) := by decide

/-- T-8. -/
theorem test_tick_halted :
    after { State.reset with status := .halted, fault := .stackOverflow, dt := 4#8, schedule := [.tick] }
      (fun t => (t.dt, t.st, t.status)) = some (3#8, 0#8, .halted) := by decide

/-- T-6. -/
theorem test_set_key :
    after { State.reset with schedule := [.setKey 3 true] }
      (fun t => (isPressed t 3, isPressed t 2, isPressed t 4)) = some (true, false, false) := by decide

/-- R-5. -/
theorem test_reset_from_halted :
    after { (regs [(3, 0x77#8)]) with status := .halted, fault := .stackUnderflow, schedule := [.reset] }
      (fun t => (t.reg 3, t.status, t.fault, t.pc)) = some (0x00#8, .running, .none, 0x0200#16) := by decide

/-- U20: between two Steps the loader cannot write. -/
theorem test_load_after_step :
    after { State.reset with schedule := [.step, .load [0x12#8], .step] }
      (fun t => decide (after t (fun u => u.pc) = none)) = some true := by decide

/-- R260: after a second Reset an image may be loaded. -/
theorem test_load_after_reset :
    after { State.reset with schedule := [.reset, .load [0x12#8]], stage := .started }
      (fun t => after t (fun u => Memory.read u.mem 0x200)) = some (some 0x12#8) := by decide

/-- R-2. -/
theorem test_load :
    after { State.reset with schedule := [.load [0x12#8, 0x00#8]] }
      (fun t => (Memory.read t.mem 0x200, Memory.read t.mem 0x201, Memory.read t.mem 0x202)) = some (0x12#8, 0x00#8, 0x00#8) := by decide

/-- R-1. -/
theorem test_reset_glyphs :
    (Memory.read State.reset.mem 0x000, Memory.read State.reset.mem 0x005, Memory.read State.reset.mem 0x04B,
      Memory.read State.reset.mem 0x04D, Memory.read State.reset.mem 0x050) = (0xF0#8, 0x20#8, 0xF0#8, 0xF0#8, 0x00#8) := by decide

/-- R31, R221. -/
theorem test_codes :
    (Status.awaitingKey.code, Status.halted.code, FaultCode.stackOverflow.code, FaultCode.addressOutOfRange.code) = (1, 2, 1, 3) ∧
      ((Report.invalidOpcode 0 0).code, (Report.fatal .stackUnderflow).code, Fault.loadError.code) = (4, 2, 5) := by decide

/-! ## For each statement with hypotheses, a state and operands that meet them, with a boundary value for each clause -/

/-- DecodeEncodeAgree: the least and the greatest SYS word, and CLS. -/
theorem test_meets_DecodeEncodeAgree :
    WellFormed (.sys 0x000#12) ∧ WellFormed (.sys 0xFFF#12) ∧ WellFormed .cls := by decide

/-- EncodeDecodeAgree: the words beside CLS. -/
theorem test_meets_EncodeDecodeAgree :
    decode 0x00E0#16 = .ok .cls ∧ decode 0x00E1#16 = .ok (.sys 0x0E1#12) ∧ decode 0x00DF#16 = .ok (.sys 0x0DF#12) := by
  decide

/-- InvalidWordsExactly: for each clause a word it lists and the valid word beside it. -/
theorem test_meets_InvalidWordsExactly :
    decode 0x5001#16 = .error .family5 ∧ decode 0x5000#16 = .ok (.seReg 0 0) ∧
    decode 0x8008#16 = .error .family8 ∧ decode 0x8007#16 = .ok (.subn 0 0) ∧
    decode 0x800F#16 = .error .family8 ∧ decode 0x800E#16 = .ok (.shl 0 0) ∧
    decode 0x9FFF#16 = .error .family9 ∧ decode 0x9FF0#16 = .ok (.sneReg 15 15) ∧
    decode 0xE09D#16 = .error .familyE ∧ decode 0xE09E#16 = .ok (.skp 0) ∧
    decode 0xF066#16 = .error .familyF ∧ decode 0xF065#16 = .ok (.ldVxMem 0) := by
  refine ⟨?_, ?_, ?_, ?_, ?_, ?_, ?_, ?_, ?_, ?_, ?_, ?_⟩ <;> decide

/-- DecodeMatchesOpcodeTable: both sides answer, and both refuse. -/
theorem test_meets_DecodeMatchesOpcodeTable :
    decodeByTable 0x00EE#16 = some .ret ∧ decodeByTable 0x00EF#16 = some (.sys 0x0EF#12) ∧
    decodeByTable 0xFFFF#16 = none := by decide

/-- A state whose next Step fetches the last word of memory. -/
def lastWord (w : Word) : State := place 0x0FFE#16 w State.reset

/-- StepRunsDecodedInstruction, at the last fetchable address. -/
theorem test_meets_StepRunsDecodedInstruction :
    (lastWord 0x1204#16).schedule = [] ∧ (lastWord 0x1204#16).status ≠ .halted ∧ (lastWord 0x1204#16).pc.toNat ≤ 0xFFE ∧
    decode (Memory.read (lastWord 0x1204#16).mem (lastWord 0x1204#16).pc.toNat ++
      Memory.read (lastWord 0x1204#16).mem ((lastWord 0x1204#16).pc.toNat + 1)) = .ok (.jp 0x204#12) := by decide

/-- StepReportsInvalidWord, at the last fetchable address. -/
theorem test_meets_StepReportsInvalidWord :
    (lastWord 0xF1FF#16).schedule = [] ∧ (lastWord 0xF1FF#16).status ≠ .halted ∧ (lastWord 0xF1FF#16).pc.toNat ≤ 0xFFE ∧
    (0xF1FF#16 = Memory.read (lastWord 0xF1FF#16).mem (lastWord 0xF1FF#16).pc.toNat ++
      Memory.read (lastWord 0xF1FF#16).mem ((lastWord 0xF1FF#16).pc.toNat + 1)) ∧
    decode 0xF1FF#16 = .error .familyF := by decide

/-- StepFetchFault: the two reported values, at PC = 0xFFF and at PC = 0x1000. -/
theorem test_meets_StepFetchFault :
    (∀ pc, ({ State.reset with pc := pc } : State).schedule = [] ∧
      ({ State.reset with pc := pc } : State).status ≠ .halted) ∧
    0xFFE < ({ State.reset with pc := 0x0FFF#16 } : State).pc.toNat ∧
    0xFFE < ({ State.reset with pc := 0x1000#16 } : State).pc.toNat :=
  ⟨fun _ => ⟨rfl, nofun⟩, by decide, by decide⟩

/-- A failed run: RET on an empty stack was taken, and an invalid word before it. -/
def failed : State := { State.reset with status := .halted, fault := .stackUnderflow, invop := true, stage := .started }

/-- HaltedIsAbsorbing. -/
theorem test_meets_HaltedIsAbsorbing : failed.schedule = [] ∧ failed.status = .halted := by decide

/-- ScheduledEventComesNext, both clauses. -/
theorem test_meets_ScheduledEventComesNext :
    State.reset.schedule = [] ∧ ({ State.reset with schedule := [.tick, .step] } : State).schedule = .tick :: [.step] := by
  decide

/-- StepStopsOnlyOnLoad: a Load after reset of the smallest image that is too large, after a Load, and after a Step. -/
theorem test_meets_StepStopsOnlyOnLoad :
    3584 < (List.replicate 3585 0xAA#8).length ∧
    ({ State.reset with schedule := [.load (List.replicate 3585 0xAA#8)] } : State).schedule =
      .load (List.replicate 3585 0xAA#8) :: [] ∧
    State.reset.stage = .fresh ∧
    step { State.reset with schedule := [.load []], stage := .loaded } = .refused .secondLoad ∧
    step { State.reset with schedule := [.load []], stage := .started } = .refused .lateLoad :=
  ⟨by rw [List.length_replicate]; decide, rfl, rfl, rfl, rfl⟩

/-- LoadPlacesImage: the largest image that fits and the smallest that does not (R-3, R-4), after reset; and the two stages in
which no Load is accepted, reached by the events themselves. -/
theorem test_meets_LoadPlacesImage :
    Memory.wf State.reset.mem ∧ (List.replicate 3584 0xAA#8).length ≤ 3584 ∧ 3584 < (List.replicate 3585 0xAA#8).length ∧
    State.reset.stage = .fresh ∧
    after { State.reset with schedule := [.load [0x12#8]] } (fun t => (decide (Memory.wf t.mem), t.stage)) = some (true, .loaded) ∧
    after State.reset (fun t => (decide (Memory.wf t.mem), t.stage)) = some (true, .started) :=
  ⟨by decide, by rw [List.length_replicate], by rw [List.length_replicate]; decide, rfl, by decide, by decide⟩

/-- The invariant holds of a state with a full stack, a PC at its bound and a byte in memory. -/
theorem test_inv_at_bounds :
    ({ State.reset with
      pc := 0x10FE#16, sp := 16, stack := Vector.replicate 16 0x1000#16, mem := [(0xFFF, 0xAA#8)] } : State).Inv :=
  ⟨by decide, by decide, by decide, by decide, by decide⟩

/-- The invariant is refused by each state that breaks one part of it. -/
theorem test_inv_refuses :
    ¬({ State.reset with pc := 0x10FF#16 } : State).Inv ∧ ¬({ State.reset with mem := [(0x300, 0x00#8)] } : State).Inv ∧
    ¬({ State.reset with sp := 1 } : State).Inv ∧ ¬({ State.reset with status := .halted } : State).Inv ∧
    ¬({ State.reset with status := .awaitingKey } : State).Inv :=
  ⟨fun h => absurd h.pc (by decide), fun h => absurd h.mem (by decide), fun h => absurd (h.stack 0) (by decide),
    fun h => absurd h.halted (by decide), fun h => absurd h.started (by decide)⟩

/-- StepKeepsInv: from reset a step answers a next state. -/
theorem test_meets_StepKeepsInv : State.reset.Inv ∧ ∃ t, step State.reset = .next t :=
  ⟨⟨by decide, by decide, by decide, by decide, by decide⟩, _, rfl⟩

/-- ErrorRecordsAreSticky, all three clauses at once. -/
theorem test_meets_ErrorRecordsAreSticky :
    failed.Inv ∧ (∃ t, step failed = .next t) ∧ (∀ rest, failed.schedule ≠ .reset :: rest) ∧
    failed.fault ≠ .none ∧ failed.status = .halted ∧ failed.invop = true :=
  ⟨⟨by decide, by decide, by decide, by decide, by decide⟩, ⟨_, rfl⟩, fun _ h => (by cases h), by decide, rfl, rfl⟩

/-- OwnershipOfWrites: a Step of JP meets the hypotheses of all its clauses. -/
theorem test_meets_OwnershipOfWrites :
    (∃ t, cycle (lastWord 0x1204#16) = .next t) ∧ fetch (lastWord 0x1204#16) = .ok 0x1204#16 ∧
    (∀ x, decode 0x1204#16 ≠ .ok (.ldB x) ∧ decode 0x1204#16 ≠ .ok (.ldMemVx x) ∧ decode 0x1204#16 ≠ .ok (.ldDTVx x) ∧
      decode 0x1204#16 ≠ .ok (.ldSTVx x)) ∧
    (∀ x y n, decode 0x1204#16 ≠ .ok .cls ∧ decode 0x1204#16 ≠ .ok (.drw x y n)) ∧
    (∃ t, occur .tick State.reset = .next t) ∧ (∃ t, occur (.setKey 15 true) State.reset = .next t) ∧
    (∃ t, occur (.load [0x12#8]) State.reset = .next t) ∧
    State.reset.status ≠ .halted ∧ failed.stage = .started ∧ (∃ t, occur .tick failed = .next t) ∧
    Event.tick ≠ .reset ∧ Event.tick ≠ .step := by
  have h : decode 0x1204#16 = .ok (.jp 0x204#12) := by decide
  refine ⟨⟨_, rfl⟩, by decide, ?_, ?_, ⟨_, rfl⟩, ⟨_, rfl⟩, ⟨_, rfl⟩, by decide, rfl, ⟨_, rfl⟩, nofun, nofun⟩ <;>
    intros <;> simp [h]

/-- PCMovesOnce: from the last word, a fatal error, an invalid word, and each way an instruction moves PC. -/
theorem test_meets_PCMovesOnce :
    (∀ w, (lastWord w).status ≠ .halted) ∧
    (afterCycle (lastWord 0x00EE#16)).map State.status = some .halted ∧
    (afterCycle (lastWord 0xF1FF#16)).map State.pc = some 0x1000#16 ∧
    (afterCycle (lastWord 0x6007#16)).map State.pc = some 0x1000#16 ∧
    (afterCycle (lastWord 0x3000#16)).map State.pc = some 0x1002#16 ∧
    (afterCycle (lastWord 0x4000#16)).map State.pc = some 0x1000#16 ∧
    (afterCycle (lastWord 0x2204#16)).map State.pc = some 0x0204#16 ∧
    (afterCycle (lastWord 0xF30A#16)).map State.pc = some 0x0FFE#16 := by
  refine ⟨fun w => nofun, ?_, ?_, ?_, ?_, ?_, ?_, ?_⟩ <;> decide

/-- FlagIsZeroOrOne, for each of the six instructions. -/
theorem test_meets_FlagIsZeroOrOne :
    State.reset.status ≠ .halted ∧
    ∀ i ∈ [Instr.addReg 15 1, .subReg 0 1, .subn 0 1, .shr 0 1, .shl 15 1, .drw 0 1 1#4],
      setsFlag i = true ∧ afterExec i State.reset State.status = some .running := by decide

/-- RegisterFrame: the flag is free of LD Vx, nn with x ≠ 15, and the register above x of LD Vx, [I]. -/
theorem test_meets_RegisterFrame :
    (∃ t, exec (.ldImm 14 0xAB#8) State.reset = .next t) ∧ mayWriteReg (.ldImm 14 0xAB#8) 15 = false ∧
    (∃ t, exec (.ldVxMem 14) State.reset = .next t) ∧ mayWriteReg (.ldVxMem 14) 15 = false ∧
    (∃ t, exec (.drw 1 2 0#4) State.reset = .next t) ∧ mayWriteReg (.drw 1 2 0#4) 14 = false :=
  ⟨⟨_, rfl⟩, by decide, ⟨_, rfl⟩, by decide, ⟨_, rfl⟩, by decide⟩

/-- MemoryFrame, its three clauses, LD [I] also where it faults. -/
theorem test_meets_MemoryFrame :
    (∃ t, exec (.ldB 5) (State.reset.setI 0x0FFD#16) = .next t) ∧
    (∃ t, exec (.ldMemVx 1) (State.reset.setI 0x0FFE#16) = .next t) ∧
    (∃ t, exec (.ldMemVx 1) (State.reset.setI 0x0FFF#16) = .next t) ∧ ∃ t, exec .cls State.reset = .next t :=
  ⟨⟨_, rfl⟩, ⟨_, rfl⟩, ⟨_, rfl⟩, _, rfl⟩

/-- SpecialStateFrame: JP meets the condition of every clause. -/
theorem test_meets_SpecialStateFrame : ∃ t, exec (.jp 0x204#12) State.reset = .next t := ⟨_, rfl⟩

/-- ReturnPopsStack: one entry and sixteen. -/
theorem test_meets_ReturnPopsStack :
    0 < ({ State.reset with sp := 1 } : State).sp.val ∧ 0 < ({ State.reset with sp := 16 } : State).sp.val := by decide

/-- CallPushes and CallThenReturn: an empty stack and fifteen entries. -/
theorem test_meets_CallPushes :
    State.reset.sp.val < 16 ∧ ({ State.reset with sp := 15 } : State).sp.val < 16 := by decide

/-- CallThenReturn: fifteen entries (the call fills the stack). -/
theorem test_meets_CallThenReturn : ({ State.reset with sp := 15 } : State).sp.val < 16 := by decide

/-- StackFaults: the full stack and the empty one. -/
theorem test_meets_StackFaults : ({ State.reset with sp := 16 } : State).sp = 16 ∧ State.reset.sp = 0 := by decide

/-- ParkedStays: JP 0xFFE at 0xFFE (F-2 at the last word). -/
theorem test_meets_ParkedStays : (lastWord 0x1FFE#16).schedule = [] ∧ (lastWord 0x1FFE#16).Parked :=
  ⟨rfl, by decide, by decide, by decide, by decide⟩

/-- AddSetsCarry, SubtractSetsNotBorrow, ShiftsSetBitOut: the clause for x ≠ 15 and the case x = 15. -/
theorem test_meets_flag_clauses : (14 : Reg) ≠ 15 ∧ ¬(15 : Reg) ≠ 15 := by decide

/-- StoreDecimalDigits: the highest legal I (M-11). -/
theorem test_meets_StoreDecimalDigits :
    Memory.wf (State.reset.setI 0x0FFD#16).mem ∧ (State.reset.setI 0x0FFD#16).i.toNat + 2 ≤ 4095 := by decide

/-- DumpRegisters, LoadRegisters, DumpThenLoadRestores: sixteen bytes that end at 0xFFF (M-16), and one (M-18). -/
theorem test_meets_DumpRegisters :
    Memory.wf (State.reset.setI 0x0FF0#16).mem ∧ (State.reset.setI 0x0FF0#16).i.toNat + (15 : Reg).val ≤ 4095 ∧
    (State.reset.setI 0x0FFF#16).i.toNat + (0 : Reg).val ≤ 4095 := by decide

/-- LoadRegisters: a register loaded and one above x. -/
theorem test_meets_LoadRegisters :
    (State.reset.setI 0x0FF1#16).i.toNat + (14 : Reg).val ≤ 4095 ∧ (14 : Reg) ≤ 14 ∧ (14 : Reg) < 15 := by decide

/-- DumpThenLoadRestores. -/
theorem test_meets_DumpThenLoadRestores :
    Memory.wf (State.reset.setI 0x0FF0#16).mem ∧ (State.reset.setI 0x0FF0#16).i.toNat + (15 : Reg).val ≤ 4095 ∧
    ∃ t, exec (.ldMemVx 15) (State.reset.setI 0x0FF0#16) = .next t :=
  ⟨by decide, by decide, _, rfl⟩

/-- AddressFaults: each site of R224 at its lowest faulting I (D-13, M-12, M-19, M-22), and far outside (M-13). -/
theorem test_meets_AddressFaults :
    (1 ≤ (3#4).toNat ∧ (State.reset.setI 0x0FFE#16).i.toNat + (3#4).toNat - 1 > 4095) ∧
    (1 ≤ (1#4).toNat ∧ (State.reset.setI 0x1000#16).i.toNat + (1#4).toNat - 1 > 4095) ∧
    (State.reset.setI 0x0FFE#16).i.toNat + 2 > 4095 ∧ (State.reset.setI 0x1234#16).i.toNat + 2 > 4095 ∧
    (State.reset.setI 0x0FFF#16).i.toNat + (1 : Reg).val > 4095 := by decide

/-- StoreSeenByFetch: the word at 0xFFE dumped by LD [I], V1 (P4 at the top of memory). -/
theorem test_meets_StoreSeenByFetch :
    Memory.wf (State.reset.setI 0x0FFE#16).mem ∧ (State.reset.setI 0x0FFE#16).i.toNat + (1 : Reg).val ≤ 4095 ∧
    (1 : Reg).val = (0 : Reg).val + 1 ∧ (1 : Reg) ≤ 1 ∧
    ∃ t u : State, exec (.ldMemVx 1) (State.reset.setI 0x0FFE#16) = .next t ∧ u.mem = t.mem ∧
      u.pc.toNat = (State.reset.setI 0x0FFE#16).i.toNat + (0 : Reg).val :=
  ⟨by decide, by decide, by decide, by decide, _, State.setPC _ 0x0FFE#16, rfl, rfl, by decide⟩

/-- DrawXorsSprite and DrawTwiceRestores: height 0 with any I (D-8), and a sprite that ends at 0xFFF (D-14). -/
theorem test_meets_DrawXorsSprite :
    (0#4 = 0 ∨ (State.reset.setI 0xFFFF#16).i.toNat + (0#4).toNat - 1 ≤ 4095) ∧
    (3#4 = 0 ∨ (State.reset.setI 0x0FFD#16).i.toNat + (3#4).toNat - 1 ≤ 4095) := by decide

/-- DrawTwiceRestores: the registers beside VF as coordinates. -/
theorem test_meets_DrawTwiceRestores :
    (14 : Reg) ≠ 15 ∧ (0 : Reg) ≠ 15 ∧ (15#4 = 0 ∨ (State.reset.setI 0x0FF1#16).i.toNat + (15#4).toNat - 1 ≤ 4095) := by
  decide

/-- SkipOnKey: key 15, its high nibble ignored. -/
theorem test_meets_SkipOnKey : (15 : Key).val = ((regs [(3, 0xFF#8)]).reg 3).toNat % 16 := by decide

/-- KeyWaitStoresLowestKey: no key; keys 4 and 9 (K-8); key 15 alone. -/
theorem test_meets_KeyWaitStoresLowestKey :
    (∀ k, isPressed State.reset k = false) ∧
    (isPressed (setKey (setKey State.reset 4 true) 9 true) 4 = true ∧
      ∀ j, j < 4 → isPressed (setKey (setKey State.reset 4 true) 9 true) j = false) ∧
    (isPressed (setKey State.reset 15 true) 15 = true ∧
      ∀ j, j < 15 → isPressed (setKey State.reset 15 true) j = false) := by decide

/-- KeyWaitRepeats: LD V3, K at the last word, no key pressed. -/
theorem test_meets_KeyWaitRepeats :
    (lastWord 0xF30A#16).schedule = [] ∧ (lastWord 0xF30A#16).status ≠ .halted ∧
    fetch (lastWord 0xF30A#16) = .ok 0xF30A#16 ∧ decode 0xF30A#16 = .ok (.ldVxK 3) ∧
    ∀ k, isPressed (lastWord 0xF30A#16) k = false := by decide

end Sys2Proof.Tests
end

section
/-! SUPPORT. Proofs of the statements about the state (spec 10_state): one inversion lemma that says what an instruction can
do (`effect_of_exec`) and one for the Step (`cycle_next`), the frames read off them, and the invariant. -/

namespace Sys2Proof.Machine

/-! ## What an instruction can do -/

/-- R224: the instructions that can raise a fatal error. -/
def mayRaise : Instr → Bool
  | .call _ | .ret | .drw _ _ _ | .ldB _ | .ldMemVx _ | .ldVxMem _ => true
  | _ => false

/-- The states that `i` can answer from `s`, in groups that share an update. A computed value is left open where only its
place matters (`skip`, `result`, `flagged`); every other value and every guard is the instruction's own. -/
inductive Effect (s : State) : Instr → State → Prop
  | raised {i : Instr} (hi : mayRaise i = true) (e : Raise) : Effect s i (s.raise e)
  | cls : Effect s .cls (s.setFB fbClear).advance
  | ret (h : 0 < s.sp.val) :
      Effect s .ret { s with pc := s.stack[s.sp.val - 1], sp := ⟨s.sp.val - 1, by omega⟩ }
  | sys (nnn : BitVec 12) : Effect s (.sys nnn) (s.invalidOpcode (encode (.sys nnn)))
  | jp (nnn : BitVec 12) : Effect s (.jp nnn) (s.setPC (literal12 nnn))
  | call (nnn : BitVec 12) (h : s.sp.val < 16) : Effect s (.call nnn) { s with
      pc := literal12 nnn, stack := s.stack.set s.sp.val (s.pc + 2#16), sp := ⟨s.sp.val + 1, by omega⟩ }
  | skip {i : Instr} (hi : pcUpdate i = .skipOrAdvance) (c : Bool) : Effect s i (s.skipIf c)
  | result {i : Instr} {x : Reg} (hi : mayWriteReg i x = true) (b : Byte) : Effect s i (s.setReg x b).advance
  | flagged {i : Instr} {x : Reg} (hx : mayWriteReg i x = true) (hf : mayWriteReg i flagReg = true) (b f : Byte) :
      Effect s i (s.resultAndFlag x b f)
  | ldI (nnn : BitVec 12) : Effect s (.ldI nnn) (s.setI (literal12 nnn)).advance
  | addI (x : Reg) : Effect s (.addI x) (s.setI (s.i + widen (s.reg x))).advance
  | ldF (x : Reg) : Effect s (.ldF x) (s.setI (glyphAddress params (s.reg x))).advance
  | jpV0 (nnn : BitVec 12) : Effect s (.jpV0 nnn) (s.setPC (literal12 nnn + widen (s.reg 0)))
  | rnd (x : Reg) (nn : Byte) :
      Effect s (.rnd x nn) ((randomByte s).2.setReg x ((randomByte s).1 &&& nn)).advance
  | drw (x y : Reg) (n : BitVec 4) (bytes : List Byte) (h : memReadSpan s.mem s.i.toNat n.toNat = .ok bytes) :
      Effect s (.drw x y n) ((s.setFB (drawSprite s.fb (s.reg x) (s.reg y) bytes).1).setFlag
        (flagByte (drawSprite s.fb (s.reg x) (s.reg y) bytes).2)).advance
  | wait (x : Reg) (h : anyPressed params s = none) : Effect s (.ldVxK x) (s.setStatus .awaitingKey)
  | ldDTVx (x : Reg) : Effect s (.ldDTVx x) (s.setDT (s.reg x)).advance
  | ldSTVx (x : Reg) : Effect s (.ldSTVx x) (s.setST (s.reg x)).advance
  | ldB (x : Reg) (m : Memory) (h : memWriteSpan s.mem s.i.toNat (bcdDigits (s.reg x)) = .ok m) :
      Effect s (.ldB x) (s.setMem m).advance
  | ldMemVx (x : Reg) (m : Memory) (h : memWriteSpan s.mem s.i.toNat (dumpedRegs s.v x) = .ok m) :
      Effect s (.ldMemVx x) (s.setMem m).advance
  | ldVxMem (x : Reg) (bs : List Byte) (h : memReadSpan s.mem s.i.toNat (x.val + 1) = .ok bs) :
      Effect s (.ldVxMem x) (s.setRegs (loadedRegs s.v 0 bs)).advance

/-- Everything an instruction can do: each next state that `exec` answers is one of the effects. -/
theorem effect_of_exec {i : Instr} {s t : State} (h : exec i s = .next t) : Effect s i t := by
  cases i with
  | cls => cases h; exact .cls
  | ret =>
    obtain ⟨e, rfl⟩ | ⟨h0, rfl⟩ := ret_next h
    · exact .raised rfl e
    · exact .ret h0
  | sys nnn => cases h; exact .sys nnn
  | jp nnn => cases h; exact .jp nnn
  | call nnn =>
    obtain ⟨e, rfl⟩ | ⟨h0, rfl⟩ := call_next h
    · exact .raised rfl e
    · exact .call nnn h0
  | seImm | sneImm | seReg | sneReg | skp | sknp => cases h; exact .skip rfl _
  | ldImm | addImm | ldReg | orReg | andReg | xorReg | ldVxDT => cases h; exact .result (by simp [mayWriteReg]) _
  | addReg | subReg | shr | subn | shl =>
    cases h; exact .flagged (by simp [mayWriteReg]) (by simp [mayWriteReg]) _ _
  | ldI nnn => cases h; exact .ldI nnn
  | addI x => cases h; exact .addI x
  | ldF x => cases h; exact .ldF x
  | jpV0 nnn => cases h; exact .jpV0 nnn
  | rnd x nn => cases h; exact .rnd x nn
  | drw x y n =>
    obtain ⟨e, rfl⟩ | ⟨bytes, hb, rfl⟩ := drw_next h
    · exact .raised rfl e
    · exact .drw x y n bytes hb
  | ldVxK x =>
    cases hk : anyPressed params s with
    | none => simp only [exec, execLdVxK, hk] at h; cases h; exact .wait x hk
    | some k => simp only [exec, execLdVxK, hk] at h; cases h; exact .result (by simp [mayWriteReg]) _
  | ldDTVx x => cases h; exact .ldDTVx x
  | ldSTVx x => cases h; exact .ldSTVx x
  | ldB x =>
    obtain ⟨e, rfl⟩ | ⟨m, hm, rfl⟩ := ldB_next h
    · exact .raised rfl e
    · exact .ldB x m hm
  | ldMemVx x =>
    obtain ⟨e, rfl⟩ | ⟨m, hm, rfl⟩ := ldMemVx_next h
    · exact .raised rfl e
    · exact .ldMemVx x m hm
  | ldVxMem x =>
    obtain ⟨e, rfl⟩ | ⟨bs, hb, rfl⟩ := ldVxMem_next h
    · exact .raised rfl e
    · exact .ldVxMem x bs hb

/-! ## Memory -/

/-- An instruction leaves MEM as it is, or is one of the two that store, with its bytes written at I upward (R34, R58). -/
theorem exec_mem_cases {i : Instr} {s t : State} (h : exec i s = .next t) :
    t.mem = s.mem ∨
    (∃ x, i = .ldB x ∧ memWriteSpan s.mem s.i.toNat (bcdDigits (s.reg x)) = .ok t.mem) ∨
    (∃ x, i = .ldMemVx x ∧ memWriteSpan s.mem s.i.toNat (dumpedRegs s.v x) = .ok t.mem) := by
  cases effect_of_exec h with
  | ldB x m hm => exact .inr (.inl ⟨x, rfl, hm⟩)
  | ldMemVx x m hm => exact .inr (.inr ⟨x, rfl, hm⟩)
  | _ => exact .inl rfl

/-- A byte outside a span that was written reads as before (R58). -/
theorem read_of_memWriteSpan {m m' : Memory} {base : Nat} {bs : List Byte} (h : memWriteSpan m base bs = .ok m')
    {a : Nat} (ha : a < base ∨ base + bs.length ≤ a) : Memory.read m' a = Memory.read m a := by
  obtain ⟨rfl, -⟩ := memWriteSpan_ok h
  exact Memory.read_writeSpan_outside m base bs ha

/-- Settles O25: MEM is the same list, or one of the two stores wrote its span. -/
theorem memoryFrame : Obligations.MemoryFrame := by
  intro i s t h
  obtain hm | ⟨x, rfl, hm⟩ | ⟨x, rfl, hm⟩ := exec_mem_cases h
  · rw [hm]
    split <;> simp
  · exact fun a ha => read_of_memWriteSpan hm (by simpa using ha)
  · exact fun a ha => read_of_memWriteSpan hm (by simpa using ha)

/-! ## General registers -/

@[simp] theorem State.reg_setFB (s : State) (fb : Framebuffer) (x : Reg) : (s.setFB fb).reg x = s.reg x := rfl

@[simp] theorem reg_randomByte (s : State) (x : Reg) : (randomByte s).2.reg x = s.reg x := rfl

/-- Registers from `bs.length` upward keep their value when `bs` is loaded from register 0 upward (R175). -/
theorem reg_setRegs_loadedRegs_above (s : State) (bs : List Byte) (r : Reg) (h : bs.length ≤ r.val) :
    (s.setRegs (loadedRegs s.v 0 bs)).reg r = s.reg r := by
  simp only [State.reg, State.setRegs_v]
  rw [loadedRegs_get, dif_neg (by omega)]

/-- Settles O24, over the effects that write a register. -/
theorem registerFrame : Obligations.RegisterFrame := by
  intro i s t r h hr
  have ne {x : Reg} (hx : mayWriteReg i x = true) : x ≠ r := by
    rintro rfl
    simp [hx] at hr
  cases effect_of_exec h with
  | result hx => simp [ne hx]
  | flagged hx hf => simp [ne hx, ne hf]
  | rnd x nn =>
    have hx : x ≠ r := ne (by simp [mayWriteReg])
    simp [hx]
  | drw x y n bytes hb =>
    have hf : flagReg ≠ r := ne rfl
    simp [hf]
  | ldVxMem x bs hb =>
    have hx : x < r := by simpa [mayWriteReg] using hr
    exact reg_setRegs_loadedRegs_above s bs r (by rw [memReadSpan_length hb]; exact hx)
  | _ => rfl

theorem flagByte_zero_or_one (b : Bool) : flagByte b = 0 ∨ flagByte b = 1 := by
  cases b
  · exact .inl rfl
  · exact .inr rfl

/-- R22: an instruction that sets the flag raises, or leaves a flag byte in VF. -/
theorem exec_flag {i : Instr} {s t : State} (hi : setsFlag i = true) (h : exec i s = .next t) :
    (∃ e, t = s.raise e) ∨ ∃ b, t.reg flagReg = flagByte b := by
  cases i with
  | addReg | subReg | shr | subn | shl => cases h; exact .inr ⟨_, State.reg_resultAndFlag _ _ flagReg _ _⟩
  | drw x y n =>
    obtain he | ⟨bytes, -, rfl⟩ := drw_next h
    · exact .inl he
    · exact .inr ⟨_, State.reg_setFlag _ flagReg _⟩
  | _ => cases hi

/-- Settles O23: the six leave a flag byte, unless they raise and so halt. -/
theorem flagIsZeroOrOne : Obligations.FlagIsZeroOrOne := by
  intro i s t hi h _ ht
  obtain ⟨e, rfl⟩ | ⟨b, hb⟩ := exec_flag hi h
  · exact absurd rfl ht
  · have := flagByte_zero_or_one b
    rwa [← hb] at this

/-! ## The special elements -/

theorem exec_key {i : Instr} {s t : State} (h : exec i s = .next t) : t.key = s.key := by
  cases effect_of_exec h <;> rfl

theorem exec_schedule {i : Instr} {s t : State} (h : exec i s = .next t) : t.schedule = s.schedule := by
  cases effect_of_exec h <;> rfl

theorem exec_stage {i : Instr} {s t : State} (h : exec i s = .next t) : t.stage = s.stage := by
  cases effect_of_exec h <;> rfl

/-- INVOP is set by SYS and written by nothing else (R114, R115). -/
theorem exec_invop_cases {i : Instr} {s t : State} (h : exec i s = .next t) :
    t.invop = s.invop ∨ ((∃ nnn, i = .sys nnn) ∧ t.invop = true) := by
  cases effect_of_exec h with
  | sys nnn => exact .inr ⟨⟨nnn, rfl⟩, rfl⟩
  | _ => exact .inl rfl

/-- FAULT, STATUS and the reports: a fatal error taken, or FAULT kept, STATUS kept but for the key wait, and nothing reported
but by SYS (R118, R226). -/
theorem exec_fault_cases {i : Instr} {s t : State} (h : exec i s = .next t) :
    (mayRaise i = true ∧ ∃ e, t = s.raise e) ∨
    (t.fault = s.fault ∧ (t.status = s.status ∨ (∃ x, i = .ldVxK x) ∧ t.status = .awaitingKey) ∧
      (t.reports = s.reports ∨ ∃ nnn, i = .sys nnn)) := by
  cases effect_of_exec h with
  | raised hi e => exact .inl ⟨hi, e, rfl⟩
  | sys nnn => exact .inr ⟨rfl, .inl rfl, .inr ⟨nnn, rfl⟩⟩
  | wait x => exact .inr ⟨rfl, .inr ⟨⟨x, rfl⟩, rfl⟩, .inl rfl⟩
  | _ => exact .inr ⟨rfl, .inl rfl, .inl rfl⟩

/-- An instruction that is none of the six of R224 cannot raise. -/
theorem mayRaise_eq_false {i : Instr}
    (hi : ∀ nnn x y n, i ≠ .call nnn ∧ i ≠ .ret ∧ i ≠ .drw x y n ∧ i ≠ .ldB x ∧ i ≠ .ldMemVx x ∧ i ≠ .ldVxMem x) :
    mayRaise i = false := by
  cases i with
  | call nnn => obtain ⟨hne, -⟩ := hi nnn 0 0 0; exact absurd rfl hne
  | ret => obtain ⟨-, hne, -⟩ := hi 0 0 0 0; exact absurd rfl hne
  | drw x y n => obtain ⟨-, -, hne, -⟩ := hi 0 x y n; exact absurd rfl hne
  | ldB x => obtain ⟨-, -, -, hne, -⟩ := hi 0 x 0 0; exact absurd rfl hne
  | ldMemVx x => obtain ⟨-, -, -, -, hne, -⟩ := hi 0 x 0 0; exact absurd rfl hne
  | ldVxMem x => obtain ⟨-, -, -, -, -, hne⟩ := hi 0 x 0 0; exact absurd rfl hne
  | _ => rfl

/-- Settles O26: for each element, the effects that change it belong to the instructions named. -/
theorem specialStateFrame : Obligations.SpecialStateFrame := by
  intro i s t h
  have he := effect_of_exec h
  refine ⟨exec_key h, exec_schedule h, exec_stage h, fun hi => ?_, fun hi => ?_, fun hi => ?_, fun hi => ?_, fun hi => ?_,
    fun hi => ?_, fun hi => ?_, fun hi => ?_⟩
  · cases he with
    | ldI nnn => exact absurd rfl (hi nnn 0).1
    | addI x => obtain ⟨-, hne, -⟩ := hi 0 x; exact absurd rfl hne
    | ldF x => obtain ⟨-, -, hne⟩ := hi 0 x; exact absurd rfl hne
    | _ => rfl
  · cases he with
    | call nnn => exact absurd rfl (hi nnn).1
    | ret => exact absurd rfl (hi 0).2
    | _ => exact ⟨rfl, rfl⟩
  · cases he with
    | ldDTVx x => exact absurd rfl (hi x)
    | _ => rfl
  · cases he with
    | ldSTVx x => exact absurd rfl (hi x)
    | _ => rfl
  · cases he with
    | cls => exact absurd rfl (hi 0 0 0).1
    | drw x y n => exact absurd rfl (hi x y n).2
    | _ => rfl
  · obtain hv | ⟨⟨nnn, rfl⟩, -⟩ := exec_invop_cases h
    · exact hv
    · exact absurd rfl (hi nnn)
  · cases he with
    | rnd x nn => exact absurd rfl (hi x nn)
    | _ => rfl
  · obtain ⟨hr, -⟩ | ⟨hf, hs, hp⟩ := exec_fault_cases h
    · rw [mayRaise_eq_false hi] at hr
      cases hr
    · refine ⟨hf, fun hk => ?_, fun hsys => ?_⟩
      · obtain hs | ⟨⟨x, rfl⟩, -⟩ := hs
        · exact hs
        · exact absurd rfl (hk x)
      · obtain hp | ⟨nnn, rfl⟩ := hp
        · exact hp
        · exact absurd rfl (hsys nnn)

/-! ## The Step -/

/-- Everything a Step can do (R117): nothing in HALTED, else the fetch fault, the report of an invalid word, or the fetched
instruction run on the started state. -/
theorem cycle_next {s t : State} (h : cycle s = .next t) :
    (s.status = .halted ∧ t = s) ∨
    (s.status ≠ .halted ∧
      ((∃ e, t = s.startStep.raise e) ∨
       (s.pc.toNat ≤ 0xFFE ∧ ∃ w, t = s.startStep.invalidOpcode w) ∨
       (s.pc.toNat ≤ 0xFFE ∧ ∃ w i, fetch s = .ok w ∧ decode w = .ok i ∧ exec i s.startStep = .next t))) := by
  obtain ⟨hs, hc⟩ | ⟨hs, -, hc⟩ | ⟨hs, hp, w, hw, ⟨i, hi, hc⟩ | ⟨e, -, hc⟩⟩ := cycle_cases s <;> rw [hc] at h
  · exact .inl ⟨hs, (Host.Outcome.next.inj h).symm⟩
  · exact .inr ⟨hs, .inl ⟨_, (Host.Outcome.next.inj h).symm⟩⟩
  · exact .inr ⟨hs, .inr (.inr ⟨hp, w, i, hw, hi, h⟩)⟩
  · exact .inr ⟨hs, .inr (.inl ⟨hp, w, (Host.Outcome.next.inj h).symm⟩)⟩

/-- R116: in HALTED a Step changes nothing. -/
theorem cycle_halted {s : State} (h : s.status = .halted) : cycle s = .next s := if_pos h

theorem cycle_stage {s t : State} (h : cycle s = .next t) (hs : s.status ≠ .halted) : t.stage = .started := by
  obtain ⟨hh, -⟩ | ⟨-, ⟨e, rfl⟩ | ⟨-, w, rfl⟩ | ⟨-, w, i, -, -, hx⟩⟩ := cycle_next h
  · exact absurd hh hs
  · rfl
  · rfl
  · exact exec_stage hx

/-- An element that the start of a Step, a fatal error and the report of an invalid word leave alone is changed by a Step
only through the fetched instruction. -/
theorem cycle_keeps {α : Type} (f : State → α) (hstart : ∀ s, f s.startStep = f s) (hraise : ∀ s e, f (s.raise e) = f s)
    (hinvalid : ∀ s w, f (s.invalidOpcode w) = f s) {s t : State} (h : cycle s = .next t)
    (hexec : ∀ w i, fetch s = .ok w → decode w = .ok i → exec i s.startStep = .next t → f t = f s.startStep) :
    f t = f s := by
  obtain ⟨-, rfl⟩ | ⟨-, ⟨e, rfl⟩ | ⟨-, w, rfl⟩ | ⟨-, w, i, hw, hi, hx⟩⟩ := cycle_next h
  · rfl
  · rw [hraise, hstart]
  · rw [hinvalid, hstart]
  · rw [hexec w i hw hi hx, hstart]

/-- R34, the row of Step. -/
theorem cycle_writes {s t : State} (h : cycle s = .next t) :
    t.key = s.key ∧
    ((∀ w x, fetch s = .ok w → decode w ≠ .ok (.ldB x) ∧ decode w ≠ .ok (.ldMemVx x)) → t.mem = s.mem) ∧
    ((∀ w x y n, fetch s = .ok w → decode w ≠ .ok .cls ∧ decode w ≠ .ok (.drw x y n)) → t.fb = s.fb) ∧
    ((∀ w x, fetch s = .ok w → decode w ≠ .ok (.ldDTVx x)) → t.dt = s.dt) ∧
    ((∀ w x, fetch s = .ok w → decode w ≠ .ok (.ldSTVx x)) → t.st = s.st) := by
  refine ⟨?_, fun hw => ?_, fun hw => ?_, fun hw => ?_, fun hw => ?_⟩
  · exact cycle_keeps State.key (fun _ => rfl) (fun _ _ => rfl) (fun _ _ => rfl) h fun _ _ _ _ hx => exec_key hx
  · refine cycle_keeps State.mem (fun _ => rfl) (fun _ _ => rfl) (fun _ _ => rfl) h fun w i hf hd hx => ?_
    obtain hm | ⟨x, rfl, -⟩ | ⟨x, rfl, -⟩ := exec_mem_cases hx
    · exact hm
    · exact absurd hd (hw w x hf).1
    · exact absurd hd (hw w x hf).2
  · refine cycle_keeps State.fb (fun _ => rfl) (fun _ _ => rfl) (fun _ _ => rfl) h fun w i hf hd hx => ?_
    obtain ⟨-, -, -, -, -, -, -, hfb, -⟩ := specialStateFrame i _ t hx
    refine hfb fun x y n => ⟨?_, ?_⟩ <;> rintro rfl
    · exact (hw w x y n hf).1 hd
    · exact (hw w x y n hf).2 hd
  · refine cycle_keeps State.dt (fun _ => rfl) (fun _ _ => rfl) (fun _ _ => rfl) h fun w i hf hd hx => ?_
    obtain ⟨-, -, -, -, -, hdt, -⟩ := specialStateFrame i _ t hx
    exact hdt fun x hi => hw w x hf (hi ▸ hd)
  · refine cycle_keeps State.st (fun _ => rfl) (fun _ _ => rfl) (fun _ _ => rfl) h fun w i hf hd hx => ?_
    obtain ⟨-, -, -, -, -, -, hst, -⟩ := specialStateFrame i _ t hx
    exact hst fun x hi => hw w x hf (hi ▸ hd)

/-- R34, R61 (d), R261: once a Step has run, MEM is written by Step and Reset only, and no event but Reset undoes that. -/
theorem occur_started {e : Event} {s t : State} (h : occur e s = .next t) (hs : s.stage = .started) (he : e ≠ .reset) :
    t.stage = .started ∧ (e ≠ .step → t.mem = s.mem) := by
  cases e with
  | step =>
    refine ⟨?_, fun hne => absurd rfl hne⟩
    by_cases hh : s.status = .halted
    · rw [occur, cycle_halted hh] at h
      cases h
      exact hs
    · exact cycle_stage h hh
  | tick => cases h; exact ⟨hs, fun _ => rfl⟩
  | setKey k b => cases h; exact ⟨hs, fun _ => rfl⟩
  | reset => exact absurd rfl he
  | load image =>
    obtain ⟨hfresh, -⟩ := load_next h
    rw [hs] at hfresh
    cases hfresh

/-- Settles O21, a row of R34 after the other. -/
theorem ownershipOfWrites : Obligations.OwnershipOfWrites := by
  refine ⟨fun s t h => ?_, fun s t h => ?_, fun k b s t h => ?_, fun image s t h => ?_, fun s t h hs => cycle_stage h hs,
    fun e s t h hs he => occur_started h hs he⟩
  · obtain ⟨hkey, hmem, hrest⟩ := cycle_writes h
    exact ⟨hkey, fun hw a => by rw [hmem hw], hrest⟩
  · cases h
    rfl
  · cases h
    rfl
  · obtain ⟨-, -, rfl⟩ := load_next h
    refine ⟨rfl, fun a ha => Memory.read_writeSpan_outside _ _ _ (.inl ?_)⟩
    simpa [progBase] using ha

/-! ## Reset -/

/-- Settles O13: both states are the outcome of a Reset, whose elements are those of `State.reset`. -/
theorem resetGivesResetValues : Obligations.ResetGivesResetValues := by
  intro s
  refine ⟨s.onReset, rfl, fun u hu => ?_⟩
  obtain ⟨r, rfl⟩ : ∃ r : State, u = r.onReset := by
    obtain rfl | rfl : u = s.onReset ∨ u = State.reset := by simpa using hu
    · exact ⟨s, rfl⟩
    · exact ⟨State.reset, rfl⟩
  refine ⟨rfl, rfl, rfl, rfl, rfl, rfl, rfl, rfl, rfl, fun x => ?_, fun k => ?_, fun x y => ?_, fun k => ?_,
    fun k hk => ?_, fun a ha => ?_⟩
  · simp [State.reg, State.reset]
  · simp [isPressed, State.reset]
  · exact fbPixel_fbClear x y
  · simp [State.reset]
  · simp [State.reset, Memory.read, Memory.background, hk]
  · have hn : ¬(params.glyphBase ≤ a ∧ a < params.glyphBase + 80) := by omega
    exact if_neg hn

/-! ## The invariant -/

/-- The event Reset leads to a state with the invariant, from any state. -/
theorem inv_onReset (s : State) : s.onReset.Inv where
  mem := Memory.nil_wf
  pc := by simp [State.reset]
  stack := fun _ hk => absurd hk (Nat.not_lt_zero _)
  halted := by simp [State.reset]
  started := fun h => absurd rfl h

/-- Settles O19. -/
theorem resetHasInv : Obligations.ResetHasInv := inv_onReset State.reset

/-- The invariant speaks of seven fields only: a state that agrees in them has it too. -/
theorem State.Inv.congr {s t : State} (hs : s.Inv) (hmem : t.mem = s.mem) (hpc : t.pc = s.pc) (hsp : t.sp = s.sp)
    (hstack : t.stack = s.stack) (hstatus : t.status = s.status) (hfault : t.fault = s.fault) (hstage : t.stage = s.stage) :
    t.Inv where
  mem := hmem ▸ hs.mem
  pc := hpc ▸ hs.pc
  stack := by rw [hsp, hstack]; exact hs.stack
  halted := by rw [hstatus, hfault]; exact hs.halted
  started := by rw [hstatus, hstage]; exact hs.started

theorem State.Inv.setSchedule {s : State} (hs : s.Inv) (q : List Event) : State.Inv { s with schedule := q } :=
  hs.congr rfl rfl rfl rfl rfl rfl rfl

/-- Taking a fatal error in a Step keeps the invariant. -/
theorem inv_raise {s : State} (hs : s.Inv) (hstage : s.stage = .started) (e : Raise) : (s.raise e).Inv where
  mem := hs.mem
  pc := hs.pc
  stack := hs.stack
  halted := by simp [Raise.code_ne_none]
  started := fun _ => hstage

/-- The invariant with nothing wrong holds at the start of a Step that is not HALTED. -/
theorem inv_startStep {s : State} (hs : s.Inv) (hh : s.status ≠ .halted) : s.startStep.Inv ∧ s.fault = .none := by
  have hf : s.fault = .none := by
    by_contra hne
    exact hh (hs.halted.2 hne)
  exact ⟨⟨hs.mem, hs.pc, hs.stack, by simp [hf], fun _ => rfl⟩, hf⟩

theorem literal12_toNat (nnn : BitVec 12) : (literal12 nnn).toNat = nnn.toNat := by
  have := nnn.isLt
  simp [literal12]
  omega

/-- An advance or a skip from an address inside memory does not wrap. -/
theorem toNat_add_of_le {pc d : Word} (hpc : pc.toNat ≤ 0xFFE) (hd : d.toNat ≤ 4) : (pc + d).toNat = pc.toNat + d.toNat := by
  rw [BitVec.toNat_add]
  omega

/-- R137, R24: the largest target of JP V0 is 0xFFF + 0xFF. -/
theorem literal12_add_widen_le (nnn : BitVec 12) (b : Byte) : (literal12 nnn + widen b).toNat ≤ 0x10FE := by
  have hn := nnn.isLt
  have hb := b.isLt
  have hw : (widen b).toNat = b.toNat := by
    simp [widen]
    omega
  rw [BitVec.toNat_add, literal12_toNat, hw]
  omega

/-- R24, R35 (c): an instruction fetched inside memory leaves PC at most 0x10FE. -/
theorem exec_pc_le {i : Instr} {s t : State} (hs : s.Inv) (hpc : s.pc.toNat ≤ 0xFFE) (h : exec i s = .next t) :
    t.pc.toNat ≤ 0x10FE := by
  have add_le {d : Word} (hd : d.toNat ≤ 4) : (s.pc + d).toNat ≤ 0x10FE := by
    rw [toNat_add_of_le hpc hd]
    omega
  cases effect_of_exec h with
  | raised | wait => exact hs.pc
  | ret h0 =>
    obtain ⟨-, hle⟩ := hs.stack ⟨s.sp.val - 1, by omega⟩ (by simp; omega)
    exact le_trans hle (by decide)
  | jp nnn | call nnn =>
    have := nnn.isLt
    have hle : (literal12 nnn).toNat ≤ 0x10FE := by
      rw [literal12_toNat]
      omega
    exact hle
  | skip hi c =>
    cases c
    · exact add_le (d := 2#16) (by decide)
    · exact add_le (d := 4#16) (by decide)
  | jpV0 nnn => exact literal12_add_widen_le nnn _
  | _ => exact add_le (d := 2#16) (by decide)

/-- R25, R35 (b): an instruction fetched inside memory leaves addresses that some CALL pushed on the stack. -/
theorem exec_stack_bounds {i : Instr} {s t : State} (hs : s.Inv) (hpc : s.pc.toNat ≤ 0xFFE) (h : exec i s = .next t) :
    ∀ k : Fin 16, k.val < t.sp.val → 2 ≤ (t.stack[k.val]).toNat ∧ (t.stack[k.val]).toNat ≤ 0x1000 := by
  cases effect_of_exec h with
  | ret h0 => exact fun k hk => hs.stack k (by simp at hk; omega)
  | call nnn h0 =>
    intro k hk
    simp only [Vector.getElem_set]
    split
    · rw [toNat_add_of_le hpc (by decide)]
      simpa using hpc
    · exact hs.stack k (by simp at hk; omega)
  | _ => exact hs.stack

theorem exec_mem_wf {i : Instr} {s t : State} (hs : s.Inv) (h : exec i s = .next t) : Memory.wf t.mem := by
  obtain hm | ⟨x, -, hm⟩ | ⟨x, -, hm⟩ := exec_mem_cases h
  · exact hm ▸ hs.mem
  · exact memWriteSpan_wf hs.mem hm
  · exact memWriteSpan_wf hs.mem hm

/-- R31, R35 (e): an instruction that starts without a fault halts exactly if it records one. -/
theorem exec_halted_iff {i : Instr} {s t : State} (hr : s.status = .running) (hf : s.fault = .none)
    (h : exec i s = .next t) : t.status = .halted ↔ t.fault ≠ .none := by
  obtain ⟨-, e, rfl⟩ | ⟨htf, hts | ⟨-, hts⟩, -⟩ := exec_fault_cases h
  · simp [Raise.code_ne_none]
  · simp [htf, hts, hr, hf]
  · simp [htf, hts, hf]

/-- The Step of the engine keeps the invariant. -/
theorem cycle_inv {s t : State} (hs : s.Inv) (h : cycle s = .next t) : t.Inv := by
  obtain ⟨-, rfl⟩ | ⟨hh, hc⟩ := cycle_next h
  · exact hs
  · obtain ⟨h0, hf⟩ := inv_startStep hs hh
    obtain ⟨e, rfl⟩ | ⟨hp, w, rfl⟩ | ⟨hp, w, i, -, -, hx⟩ := hc
    · exact inv_raise h0 rfl e
    · have hpc : (s.pc + 2#16).toNat ≤ 0x10FE := by
        rw [toNat_add_of_le hp (by decide)]
        simp
        omega
      exact ⟨h0.mem, hpc, h0.stack, h0.halted, h0.started⟩
    · exact ⟨exec_mem_wf h0 hx, exec_pc_le h0 hp hx, exec_stack_bounds h0 hp hx, exec_halted_iff s.startStep_status hf hx,
        fun _ => exec_stage hx⟩

/-- A Load that is accepted comes before any Step, so STATUS is RUNNING, and it keeps the invariant. -/
theorem load_inv {s t : State} {image : List Byte} (hs : s.Inv) (h : load s image = .next t) : t.Inv := by
  obtain ⟨hfresh, hlen, rfl⟩ := load_next h
  have hr : s.status = .running := by
    by_contra hne
    rw [hs.started hne] at hfresh
    cases hfresh
  have hfit : progBase + image.length ≤ memSize := by
    simp [progBase, memSize]
    omega
  exact ⟨Memory.writeSpan_wf hs.mem hfit, hs.pc, hs.stack, hs.halted, fun hne => absurd hr hne⟩

theorem occur_inv {e : Event} {s t : State} (hs : s.Inv) (h : occur e s = .next t) : t.Inv := by
  cases e with
  | step => exact cycle_inv hs h
  | tick => cases h; exact hs.congr rfl rfl rfl rfl rfl rfl rfl
  | setKey k b => cases h; exact hs.congr rfl rfl rfl rfl rfl rfl rfl
  | reset => cases h; exact inv_onReset s
  | load image => exact load_inv hs h

/-- R12: each step of the machine is an event, the oldest scheduled one or else a Step, on the state with the event taken
from the schedule. -/
theorem step_event (s : State) : ∃ (e : Event) (rest : List Event),
    (s.schedule = e :: rest ∨ e = .step) ∧ step s = occur e { s with schedule := rest } := by
  cases hq : s.schedule with
  | nil => exact ⟨.step, [], .inr rfl, by rw [step_eq_cycle hq, ← hq]; rfl⟩
  | cons e rest => exact ⟨e, rest, .inl rfl, step_eq_occur hq⟩

/-- Settles O18: the invariant does not speak of the schedule, and every event keeps it. -/
theorem stepKeepsInv : Obligations.StepKeepsInv := by
  intro s t hs h
  obtain ⟨e, rest, -, he⟩ := step_event s
  rw [he] at h
  exact occur_inv (hs.setSchedule rest) h

/-! ## Sticky records -/

/-- R31: a Step keeps INVOP set. -/
theorem cycle_invop {s t : State} (hi : s.invop = true) (h : cycle s = .next t) : t.invop = true := by
  obtain ⟨-, rfl⟩ | ⟨-, ⟨e, rfl⟩ | ⟨-, w, rfl⟩ | ⟨-, w, i, -, -, hx⟩⟩ := cycle_next h
  · exact hi
  · exact hi
  · rfl
  · obtain hv | ⟨-, hv⟩ := exec_invop_cases hx
    · exact hv.trans hi
    · exact hv

/-- The records of an error in `s` are kept in `t` (R31, R35 (f)). -/
def KeepsErrorRecords (s t : State) : Prop :=
  (s.fault ≠ .none → t.fault = s.fault) ∧ (s.status = .halted → t.status = .halted) ∧ (s.invop = true → t.invop = true)

/-- A recorded FAULT means HALTED, where a Step does nothing (R116). -/
theorem cycle_keepsErrorRecords {s t : State} (hs : s.Inv) (h : cycle s = .next t) : KeepsErrorRecords s t := by
  refine ⟨fun hf => ?_, fun hh => ?_, fun hi => cycle_invop hi h⟩
  · rw [cycle_halted (hs.halted.2 hf)] at h
    cases h
    rfl
  · rw [cycle_halted hh] at h
    cases h
    exact hh

theorem occur_keepsErrorRecords {e : Event} {s t : State} (hs : s.Inv) (he : e ≠ .reset) (h : occur e s = .next t) :
    KeepsErrorRecords s t := by
  cases e with
  | step => exact cycle_keepsErrorRecords hs h
  | tick => cases h; exact ⟨fun _ => rfl, id, id⟩
  | setKey k b => cases h; exact ⟨fun _ => rfl, id, id⟩
  | reset => exact absurd rfl he
  | load image =>
    obtain ⟨-, -, rfl⟩ := load_next h
    exact ⟨fun _ => rfl, id, id⟩

/-- Settles O20: every event but Reset keeps the records. -/
theorem errorRecordsAreSticky : Obligations.ErrorRecordsAreSticky := by
  intro s t hs h hreset
  obtain ⟨e, rest, hq, he⟩ := step_event s
  rw [he] at h
  have hne : e ≠ .reset := by
    rintro rfl
    obtain hq | hq := hq
    · exact hreset rest hq
    · cases hq
  have hk : KeepsErrorRecords _ t := occur_keepsErrorRecords (hs.setSchedule rest) hne h
  exact hk

end Sys2Proof.Machine
end

section
/-! SUPPORT. Proofs of the statements about memory (spec 20_memory): what a Load leaves in MEM, and what a fetch reads after
a register dump. -/

namespace Sys2Proof.Machine

/-! ## The Load -/

/-- R67: in canonical memory byte `k` of an image that fits is at `0x200 + k` after the Load. -/
theorem Memory.read_image {m : Memory} (hm : m.wf) {image : List Byte} (hlen : image.length ≤ 3584) {k : Nat}
    (hk : k < image.length) : image[k]? = some (Memory.read (Memory.writeSpan m progBase image) (0x200 + k)) := by
  have hfit : progBase + image.length ≤ memSize := by
    simp [progBase, memSize]
    omega
  rw [List.getElem?_eq_getElem hk, ← Memory.read_writeSpan_inside hm hfit hk, progBase]

/-- Settles O16: the stage refuses the Load, or the length decides between LoadError and the image in MEM. -/
theorem loadPlacesImage : Obligations.LoadPlacesImage := by
  intro image s hm
  refine ⟨load_started image, load_loaded image, load_tooLarge, fun hs hlen => ⟨_, load_fits hs hlen, rfl, ?_, ?_⟩⟩
  · exact fun k hk => Memory.read_image hm hlen hk
  · exact fun a ha => Memory.read_writeSpan_outside s.mem progBase image ha

/-! ## A store and a later fetch -/

/-- R174: the span of a dump lies inside memory when its last byte does. -/
theorem dump_fits {x : Reg} {s : State} (h : s.i.toNat + x.val ≤ 4095) :
    s.i.toNat + (dumpedRegs s.v x).length ≤ memSize := by
  simp [memSize]
  omega

/-- R174: a dump whose bytes all exist writes V[0] to V[x] at I upward, keeps I, and advances. -/
theorem exec_ldMemVx_inRange {x : Reg} {s : State} (h : s.i.toNat + x.val ≤ 4095) :
    exec (.ldMemVx x) s = .next (s.setMem (Memory.writeSpan s.mem s.i.toNat (dumpedRegs s.v x))).advance := by
  rw [exec, execLdMemVx, memWriteSpan_inRange _ (dump_fits h)]
  rfl

/-- R174: from canonical memory the byte at I + k after a dump is V[k]. -/
theorem read_of_dump {x k : Reg} {s t : State} (hm : s.mem.wf) (hr : s.i.toNat + x.val ≤ 4095)
    (h : exec (.ldMemVx x) s = .next t) (hk : k ≤ x) : Memory.read t.mem (s.i.toNat + k.val) = s.reg k := by
  rw [exec_ldMemVx_inRange hr] at h
  cases h
  have hlen : k.val < (dumpedRegs s.v x).length := by
    simp
    omega
  exact (Memory.read_writeSpan_inside hm (dump_fits hr) hlen).trans (dumpedRegs_get s x k hlen)

/-- Settles O53: the word lies inside memory, and its two bytes are the two registers dumped there. -/
theorem storeSeenByFetch : Obligations.StoreSeenByFetch := by
  intro x k l s t u hm hr h hl hlx hmem hpc
  have hle : k.val + 1 ≤ x.val := hl ▸ hlx
  have hhi : Memory.read u.mem u.pc.toNat = s.reg k := by
    rw [hmem, hpc]
    exact read_of_dump hm hr h (Nat.le_of_succ_le hle)
  have hlo : Memory.read u.mem (u.pc.toNat + 1) = s.reg l := by
    rw [hmem, hpc, Nat.add_assoc, ← hl]
    exact read_of_dump hm hr h hlx
  rw [fetch_inRange (by omega), hhi, hlo]

end Sys2Proof.Machine
end

section
/-! SUPPORT. Proofs of the statements about the encoding (spec 30_encoding): what a selected row of the opcode map says of the
fields of a word, the decoder on the words of each row, and the words each family of the decoder accepts and rejects. -/

namespace Sys2Proof.Laws.Pattern

/-- The family Pattern as one statement. -/
theorem all (i : Instr) : Statement i := by
  cases i
  exacts [cls, ret, sys _, jp _, call _, seImm _ _, sneImm _ _, seReg _ _, ldImm _ _, addImm _ _, ldReg _ _, orReg _ _,
    andReg _ _, xorReg _ _, addReg _ _, subReg _ _, shr _ _, subn _ _, shl _ _, sneReg _ _, ldI _, jpV0 _, rnd _ _,
    drw _ _ _, skp _, sknp _, ldVxDT _, ldVxK _, ldDTVx _, ldSTVx _, addI _, ldF _, ldB _, ldMemVx _, ldVxMem _]

end Sys2Proof.Laws.Pattern

namespace Sys2Proof

/-! ## The fields that a mask fixes -/

/-- A field whose bits a mask keeps is the pattern's in every word that meets mask and pattern. -/
theorem extractLsb'_of_match {w m p : Word} {start len : Nat} (h : w &&& m = p)
    (hm : m.extractLsb' start len = BitVec.allOnes len) : w.extractLsb' start len = p.extractLsb' start len := by
  rw [← h, BitVec.extractLsb'_and, hm, BitVec.and_allOnes]

/-! ## The decoder on the words of a row (R84, R85) -/

/-- A word that a row other than SYS selects decodes to what the row reads from it: the row's mask fixes the fields that the
decoder looks at. -/
theorem decode_of_contractRow {w : Word} {r : OpRow} (hr : r ∈ contractRows) (h : w &&& r.mask = r.pattern) :
    decode w = .ok (r.operands.read w) := by
  have hmask : ∀ r ∈ contractRows, fieldOp r.mask = 0xF#4 := by decide
  have hop : fieldOp w = fieldOp r.pattern := extractLsb'_of_match h (hmask r hr)
  have hn : fieldN r.mask = 0xF#4 → fieldN w = fieldN r.pattern := extractLsb'_of_match h
  have hnn : fieldNN r.mask = 0xFF#8 → fieldNN w = fieldNN r.pattern := extractLsb'_of_match h
  rw [decode, decodeWith, hop]
  simp only [contractRows, List.mem_append, List.mem_cons, List.not_mem_nil, or_false] at hr
  -- A row of mask F000 is settled by the family; the others need the word, the low nibble or the low byte too.
  obtain ((hr | hr) | hr) | hr := hr
  · obtain rfl | rfl | rfl | rfl | rfl | rfl | rfl | rfl | rfl := hr
    · rw [(and_mask_all w).symm.trans h]; rfl
    · rw [(and_mask_all w).symm.trans h]; rfl
    · rfl
    · rfl
    · rfl
    · rfl
    · rw [hn rfl]; rfl
    · rfl
    · rfl
  · obtain rfl | rfl | rfl | rfl | rfl | rfl | rfl | rfl | rfl := hr <;> rw [decode8, hn rfl] <;> rfl
  · obtain rfl | rfl | rfl | rfl | rfl | rfl | rfl := hr
    · rw [hn rfl]; rfl
    · rfl
    · rfl
    · rfl
    · rfl
    · rw [decodeE, hnn rfl]; rfl
    · rw [decodeE, hnn rfl]; rfl
  · obtain rfl | rfl | rfl | rfl | rfl | rfl | rfl | rfl | rfl := hr <;> rw [decodeF, hnn rfl] <;> rfl

/-- R85, tie-break (a): a word of family 0 other than 00E0 and 00EE is SYS. -/
theorem decode_of_sysRow {w : Word} (h : w &&& 0xF000#16 = 0x0000#16) (hcls : w ≠ 0x00E0#16) (hret : w ≠ 0x00EE#16) :
    decode w = .ok (.sys (fieldNNN w)) := by
  have hop : fieldOp w = 0x0#4 := extractLsb'_of_match h rfl
  rw [decode, decodeWith, hop]
  exact (if_neg hcls).trans (if_neg hret)

/-- Settles O1: the word of an instruction is a word of its row, and the decoder answers what that row reads. -/
theorem decodeEncodeAgree : Obligations.DecodeEncodeAgree := by
  intro i hi
  obtain ⟨r, hr, hm, hread⟩ := Laws.Pattern.all i
  obtain hr | hr := List.mem_append.mp hr
  · rw [decode_of_contractRow hr hm, hread]
  · obtain rfl := List.mem_singleton.mp hr
    rw [← hread, WellFormed, Operands.read, Instr.wellFormed, Bool.and_eq_true, bne_iff_ne, bne_iff_ne] at hi
    obtain ⟨hE0, hEE⟩ := hi
    have hcls : encode i ≠ 0x00E0#16 := fun h => hE0 (congrArg fieldNNN h)
    have hret : encode i ≠ 0x00EE#16 := fun h => hEE (congrArg fieldNNN h)
    rw [decode_of_sysRow hm hcls hret]
    exact congrArg Except.ok hread

/-! ## The word of a decoded instruction (R85, R87) -/

theorem formatA_eq {w : Word} {op : BitVec 4} (hop : (fieldOp w).toNat = op.toNat) : formatA op (fieldNNN w) = w := by
  rw [← BitVec.eq_of_toNat_eq hop, formatA_of_fields]

theorem formatI_eq {w : Word} {op : BitVec 4} {nn : Byte} (hop : (fieldOp w).toNat = op.toNat) (hnn : fieldNN w = nn) :
    formatI op (fieldX w) nn = w := by
  rw [← BitVec.eq_of_toNat_eq hop, ← hnn, formatI_of_fields]

theorem formatR_eq {w : Word} {op n : BitVec 4} (hop : (fieldOp w).toNat = op.toNat)
    (hn : (fieldN w).toNat = n.toNat) : formatR op (fieldX w) (fieldY w) n = w := by
  rw [← BitVec.eq_of_toNat_eq hop, ← BitVec.eq_of_toNat_eq hn, formatR_of_fields]

theorem encode_of_decode0 {w : Word} {i : Instr} (hop : (fieldOp w).toNat = 0x0) (h : decode0 w = .ok i) :
    WellFormed i ∧ encode i = w := by
  unfold decode0 at h
  split_ifs at h with hcls hret <;> cases h
  · exact ⟨rfl, hcls.symm⟩
  · exact ⟨rfl, hret.symm⟩
  · have hw : formatA 0x0#4 (fieldNNN w) = w := formatA_eq hop
    have hE0 : fieldNNN w ≠ 0x0E0#12 := fun hn => hcls (by rw [← hw, hn]; rfl)
    have hEE : fieldNNN w ≠ 0x0EE#12 := fun hn => hret (by rw [← hw, hn]; rfl)
    exact ⟨by simp [WellFormed, Instr.wellFormed, hE0, hEE], hw⟩

theorem encode_of_decode8 {w : Word} {i : Instr} (hop : (fieldOp w).toNat = 0x8) (h : decode8 w = .ok i) :
    WellFormed i ∧ encode i = w := by
  unfold decode8 at h
  split at h <;> cases h <;> exact ⟨rfl, formatR_eq hop (by assumption)⟩

theorem encode_of_decodeE {w : Word} {i : Instr} (hop : (fieldOp w).toNat = 0xE) (h : decodeE w = .ok i) :
    WellFormed i ∧ encode i = w := by
  unfold decodeE at h
  split_ifs at h <;> cases h <;> exact ⟨rfl, formatI_eq hop (by assumption)⟩

theorem encode_of_decodeF {w : Word} {i : Instr} (hop : (fieldOp w).toNat = 0xF) (h : decodeF w = .ok i) :
    WellFormed i ∧ encode i = w := by
  unfold decodeF at h
  split_ifs at h <;> cases h <;> exact ⟨rfl, formatI_eq hop (by assumption)⟩

/-- STRICT_DECODE (D5): families 5 and 9 answer `j` only for the low nibble 0. -/
theorem strict_ok {w : Word} {i j : Instr} {e : Reject}
    (h : (if Machine.params.strictDecode && fieldN w != 0#4 then .error e else .ok j) = Except.ok i) :
    fieldN w = 0#4 ∧ i = j := by
  split_ifs at h with hn
  cases h
  exact ⟨by simpa [Machine.params] using hn, rfl⟩

/-- Settles O2: family by family, the fields that the decoder read are put back by the encoder. -/
theorem encodeDecodeAgree : Obligations.EncodeDecodeAgree := by
  intro w i h
  have hlt : (fieldOp w).toNat < 16 := (fieldOp w).isLt
  rw [decode, decodeWith] at h
  interval_cases hop : (fieldOp w).toNat
  · exact encode_of_decode0 hop h
  · cases h; exact ⟨rfl, formatA_eq hop⟩
  · cases h; exact ⟨rfl, formatA_eq hop⟩
  · cases h; exact ⟨rfl, formatI_eq hop rfl⟩
  · cases h; exact ⟨rfl, formatI_eq hop rfl⟩
  · obtain ⟨hn, rfl⟩ := strict_ok h
    exact ⟨rfl, formatR_eq hop (congrArg BitVec.toNat hn)⟩
  · cases h; exact ⟨rfl, formatI_eq hop rfl⟩
  · cases h; exact ⟨rfl, formatI_eq hop rfl⟩
  · exact encode_of_decode8 hop h
  · obtain ⟨hn, rfl⟩ := strict_ok h
    exact ⟨rfl, formatR_eq hop (congrArg BitVec.toNat hn)⟩
  · cases h; exact ⟨rfl, formatA_eq hop⟩
  · cases h; exact ⟨rfl, formatA_eq hop⟩
  · cases h; exact ⟨rfl, formatI_eq hop rfl⟩
  · cases h; exact ⟨rfl, formatR_eq hop rfl⟩
  · exact encode_of_decodeE hop h
  · exact encode_of_decodeF hop h

/-! ## The opcode map (R84, R85) -/

/-- Settles O3: a word that a row selects decodes to what the row reads, SYS last; a word that decodes is the word of an
instruction, so some row selects it. -/
theorem decodeMatchesOpcodeTable : Obligations.DecodeMatchesOpcodeTable := by
  intro w
  rw [decodeByTable, opcodeRows, List.find?_append]
  cases hc : contractRows.find? fun r => w &&& r.mask == r.pattern with
  | some r =>
    rw [decode_of_contractRow (List.mem_of_find?_eq_some hc) (eq_of_beq (List.find?_some hc :))]
    rfl
  | none =>
    have hnone : ∀ r ∈ contractRows, w &&& r.mask ≠ r.pattern := by simpa using hc
    by_cases h0 : w &&& 0xF000#16 = 0x0000#16
    · have hcls : w ≠ 0x00E0#16 := by
        rintro rfl
        exact hnone ⟨0xFFFF, 0x00E0, .none .cls⟩ (by simp [contractRows]) rfl
      have hret : w ≠ 0x00EE#16 := by
        rintro rfl
        exact hnone ⟨0xFFFF, 0x00EE, .none .ret⟩ (by simp [contractRows]) rfl
      rw [decode_of_sysRow h0 hcls hret]
      simp [h0, Operands.read]
    · cases hd : decode w with
      | error e => simp [h0]
      | ok i =>
        obtain ⟨-, rfl⟩ := encodeDecodeAgree w i hd
        obtain ⟨r, hr, hm, -⟩ := Laws.Pattern.all i
        obtain hr | hr := List.mem_append.mp hr
        · exact absurd hm (hnone r hr)
        · obtain rfl := List.mem_singleton.mp hr
          exact absurd hm h0

/-- Bits that both rows fix, and fix differently, keep the rows apart. -/
theorem rows_disjoint_of_conflict {r q : OpRow} (h : r.pattern &&& q.mask ≠ q.pattern &&& r.mask) (w : Word) :
    ¬(w &&& r.mask = r.pattern ∧ w &&& q.mask = q.pattern) := by
  rintro ⟨hr, hq⟩
  exact h (by rw [← hr, ← hq, BitVec.and_assoc, BitVec.and_assoc, BitVec.and_comm r.mask])

/-- Settles O4: every two of these rows fix a common bit differently. -/
theorem noWordSelectsTwoRows : Obligations.NoWordSelectsTwoRows := by
  have hconflict : contractRows.Pairwise fun r q => r.pattern &&& q.mask ≠ q.pattern &&& r.mask := by decide
  exact hconflict.imp rows_disjoint_of_conflict

/-! ## The words that are rejected (R86) -/

theorem fieldN_eq_iff (w : Word) (n : BitVec 4) : fieldN w = n ↔ w.toNat % 16 = n.toNat := by
  rw [← fieldN_toNat, BitVec.toNat_inj]

theorem fieldNN_eq_iff (w : Word) (nn : Byte) : fieldNN w = nn ↔ w.toNat % 256 = nn.toNat := by
  rw [← fieldNN_toNat, BitVec.toNat_inj]

theorem decode0_ne_error (w : Word) (e : Reject) : decode0 w ≠ .error e := by
  unfold decode0
  split_ifs <;> simp

theorem strict_error_iff (w : Word) (e : Reject) (i : Instr) :
    (∃ e', (if Machine.params.strictDecode && fieldN w != 0#4 then .error e else .ok i) = Except.error e') ↔
      w.toNat % 16 ≠ 0 := by
  have hn : (Machine.params.strictDecode && fieldN w != 0#4) = true ↔ w.toNat % 16 ≠ 0 := by
    simp [Machine.params, fieldN_eq_iff]
  rw [← hn]
  split_ifs <;> simp_all

theorem decode8_error_iff (w : Word) :
    (∃ e, decode8 w = .error e) ↔ w.toNat % 16 ∈ [0x8, 0x9, 0xA, 0xB, 0xC, 0xD, 0xF] := by
  have hlt : w.toNat % 16 < 16 := Nat.mod_lt _ (by decide)
  rw [decode8, fieldN_toNat]
  interval_cases w.toNat % 16 <;> simp

theorem decodeE_error_iff (w : Word) : (∃ e, decodeE w = .error e) ↔ w.toNat % 256 ∉ [0x9E, 0xA1] := by
  simp only [decodeE, fieldNN_eq_iff]
  split_ifs <;> simp_all

theorem decodeF_error_iff (w : Word) :
    (∃ e, decodeF w = .error e) ↔ w.toNat % 256 ∉ [0x07, 0x0A, 0x15, 0x18, 0x1E, 0x29, 0x33, 0x55, 0x65] := by
  simp only [decodeF, fieldNN_eq_iff]
  split_ifs <;> simp_all

/-- Settles O5: families 5, 8, 9, E and F reject by their sub-opcode, and no other family rejects. -/
theorem invalidWordsExactly : Obligations.InvalidWordsExactly := by
  intro w
  have hlt : w.toNat / 4096 < 16 := by omega
  rw [decode, decodeWith, fieldOp_toNat]
  interval_cases w.toNat / 4096
  · simp [decode0_ne_error]
  · simp
  · simp
  · simp
  · simp
  · simpa using strict_error_iff w _ _
  · simp
  · simp
  · simp [decode8_error_iff]
  · simpa using strict_error_iff w _ _
  · simp
  · simp
  · simp
  · simp
  · simp [decodeE_error_iff]
  · simp [decodeF_error_iff]

/-! ## Worked encodings (R89) -/

/-- Settles O6: each word is decoded by evaluation. -/
theorem workedEncodings : Obligations.WorkedEncodings := by
  unfold Obligations.WorkedEncodings
  decide

end Sys2Proof
end

section
/-! SUPPORT. Proofs of the statements about the cycle (spec 40_cycle): a Step as the execution of the fetched word, the fetch
fault, HALTED, the answer of every instruction, and the table of the PC updates. -/

namespace Sys2Proof.Machine

/-! ## The Step of a fetched word (R111, R112, R114, R117) -/

/-- A Step that is not HALTED executes the big-endian word at a PC inside memory. -/
theorem cycle_inRange {s : State} (hs : s.status ≠ .halted) (hp : s.pc.toNat ≤ 0xFFE) :
    cycle s = executeWord (Memory.read s.mem s.pc.toNat ++ Memory.read s.mem (s.pc.toNat + 1)) s := by
  rw [cycle, if_neg hs, fetch_inRange hp]

/-- A Step that is not HALTED raises at a PC outside memory. -/
theorem cycle_outOfRange {s : State} (hs : s.status ≠ .halted) (hp : 0xFFE < s.pc.toNat) :
    cycle s = .next (s.startStep.raise (.addressOutOfRange (max s.pc.toNat 0x1000))) := by
  rw [cycle, if_neg hs, fetch_outOfRange hp]

theorem executeWord_ok {w : Word} {i : Instr} (hd : decode w = .ok i) (s : State) :
    executeWord w s = exec i s.startStep := by
  rw [executeWord, hd]

theorem executeWord_error {w : Word} {e : Reject} (hd : decode w = .error e) (s : State) :
    executeWord w s = .next (s.startStep.invalidOpcode w) := by
  rw [executeWord, hd]

/-- Settles O7: the two bytes at PC are the word that the Step executes. -/
theorem stepRunsDecodedInstruction : Obligations.StepRunsDecodedInstruction := by
  intro s i hq hs hp hd
  rw [step_eq_cycle hq, cycle_inRange hs hp, executeWord_ok hd, State.startStep]

/-- Settles O8: the word that the Step executes is reported. -/
theorem stepReportsInvalidWord : Obligations.StepReportsInvalidWord := by
  intro s w e hq hs hp hw hd
  rw [step_eq_cycle hq, cycle_inRange hs hp, ← hw, executeWord_error hd]
  rfl

/-- R111: above 0xFFE the first byte that does not exist is 0x1000 if PC = 0xFFF, else the one at PC. -/
theorem max_pc_eq_firstMissingByte {pc : Word} (hp : 0xFFE < pc.toNat) :
    max pc.toNat 0x1000 = if pc = 0xFFF#16 then 0x1000 else pc.toNat := by
  split
  · next h => rw [h]; rfl
  · next h =>
    have hne : pc.toNat ≠ 0xFFF := fun he => h (BitVec.eq_of_toNat_eq he)
    omega

/-- Settles O9: the Step raises with the first byte that does not exist. -/
theorem stepFetchFault : Obligations.StepFetchFault := by
  intro s hq hs hp
  rw [step_eq_cycle hq, cycle_outOfRange hs hp, max_pc_eq_firstMissingByte hp]
  rfl

/-! ## HALTED (R116) -/

/-- Settles O10, by induction on the number of Steps. -/
theorem haltedIsAbsorbing : Obligations.HaltedIsAbsorbing := by
  intro n s hq hs
  have hstep : step s = .next s := by rw [step_eq_cycle hq, cycle_halted hs]
  induction n with
  | zero => rfl
  | succ n ih => rw [core_run_succ n hstep, ih]

/-! ## Every instruction answers (R117, R226) -/

theorem orRaise_answers (s : State) (r : Except Raise State) : ∃ t, orRaise s r = .next t := by
  cases r with
  | ok t => exact ⟨t, rfl⟩
  | error e => exact ⟨s.raise e, rfl⟩

/-- Settles O17: an instruction that may raise ends in `orRaise`, the key wait answers whether a key is pressed or not, and
the others have one outcome. -/
theorem execAlwaysAnswers : Obligations.ExecAlwaysAnswers := by
  intro i s
  cases i with
  | ret | call | drw | ldB | ldMemVx | ldVxMem => exact orRaise_answers s _
  | ldVxK x =>
    rw [exec, execLdVxK]
    cases anyPressed params s with
    | none => exact ⟨_, rfl⟩
    | some k => exact ⟨_, rfl⟩
  | _ => exact ⟨_, rfl⟩

/-! ## SYS (R115) -/

theorem encode_sys_toNat (nnn : BitVec 12) : (encode (.sys nnn)).toNat = nnn.toNat := by
  rw [encode, formatA_toNat]
  simp

/-- Settles O35: the word that SYS reports is its own. -/
theorem sysReportsInvalid : Obligations.SysReportsInvalid :=
  fun nnn _ => ⟨encode (.sys nnn), encode_sys_toNat nnn, rfl⟩

/-! ## The PC updates (R113) -/

/-- R226: an instruction that halts the engine raised, so PC is held. -/
theorem exec_pc_of_halted {i : Instr} {s t : State} (hs : s.status ≠ .halted) (h : exec i s = .next t)
    (ht : t.status = .halted) : t.pc = s.pc := by
  obtain ⟨-, e, rfl⟩ | ⟨-, hts | ⟨-, hts⟩, -⟩ := exec_fault_cases h
  · rfl
  · exact absurd (hts.symm.trans ht) hs
  · rw [hts] at ht
    cases ht

theorem exec_pc_advance {i : Instr} {s t : State} (hi : pcUpdate i = .advance) (h : exec i s = .next t)
    (ht : t.status ≠ .halted) : t.pc = s.pc + 2#16 := by
  cases effect_of_exec h with
  | raised => exact absurd rfl ht
  | ret | jp | call | jpV0 | wait => cases hi
  | skip hskip =>
    rw [hi] at hskip
    cases hskip
  | _ => rfl

theorem exec_pc_skipOrAdvance {i : Instr} {s t : State} (hi : pcUpdate i = .skipOrAdvance) (h : exec i s = .next t) :
    t.pc = s.pc + 2#16 ∨ t.pc = s.pc + 4#16 := by
  have hskip (c : Bool) : (s.skipIf c).pc = s.pc + 2#16 ∨ (s.skipIf c).pc = s.pc + 4#16 := by
    cases c
    · exact .inl rfl
    · exact .inr rfl
  cases i with
  | seImm | sneImm | seReg | sneReg | skp | sknp => cases h; exact hskip _
  | _ => cases hi

/-- R83: a literal target, zero-extended. -/
theorem literal12_eq_ofNat (nnn : BitVec 12) : literal12 nnn = BitVec.ofNat 16 nnn.toNat := by
  rw [← literal12_toNat, BitVec.ofNat_toNat, BitVec.setWidth_eq]

/-- R137: the target of JP V0. -/
theorem literal12_add_widen_eq_ofNat (nnn : BitVec 12) (b : Byte) :
    literal12 nnn + widen b = BitVec.ofNat 16 (nnn.toNat + b.toNat) := by
  rw [literal12_eq_ofNat, widen, ← BitVec.ofNat_toNat, ← BitVec.ofNat_add]

/-- R130, R131, R132, R137: the four that set PC directly raise, or go to their target. -/
theorem exec_pc_setDirectly {i : Instr} {s t : State} (hi : pcUpdate i = .setDirectly) (h : exec i s = .next t)
    (ht : t.status ≠ .halted) : directTarget i s = some t.pc := by
  cases i with
  | ret =>
    obtain ⟨e, rfl⟩ | ⟨h0, rfl⟩ := ret_next h
    · exact absurd rfl ht
    · have hne : s.sp ≠ 0 := Fin.pos_iff_ne_zero.1 h0
      have hlt : s.sp.val - 1 < 16 := by omega
      simp [directTarget, hne, hlt]
  | jp nnn =>
    cases h
    simp [directTarget, literal12_eq_ofNat]
  | call nnn =>
    obtain ⟨e, rfl⟩ | ⟨-, rfl⟩ := call_next h
    · exact absurd rfl ht
    · simp [directTarget, literal12_eq_ofNat]
  | jpV0 nnn =>
    cases h
    simp [directTarget, literal12_add_widen_eq_ofNat]
  | _ => cases hi

/-- R202: the key wait advances if a key is pressed, and else holds. -/
theorem exec_pc_advanceOrHold {i : Instr} {s t : State} (hi : pcUpdate i = .advanceOrHold) (h : exec i s = .next t) :
    (∃ k, isPressed s k = true) ∧ t.pc = s.pc + 2#16 ∨ (¬∃ k, isPressed s k = true) ∧ t.pc = s.pc := by
  cases i with
  | ldVxK x =>
    cases hk : anyPressed params s with
    | none =>
      simp only [exec, execLdVxK, hk] at h
      cases h
      have hnone := anyPressed_none.1 hk
      exact .inr ⟨by simp [hnone], rfl⟩
    | some k =>
      simp only [exec, execLdVxK, hk] at h
      cases h
      exact .inl ⟨⟨k, List.find?_some hk⟩, rfl⟩
  | _ => cases hi

/-- R113, the table: the fetched instruction `i` moves PC from its place in `s` to that in `t` as its row says. -/
def MovesPC (i : Instr) (s t : State) : Prop :=
  match pcUpdate i with
  | .advance => t.pc.toNat = s.pc.toNat + 2
  | .skipOrAdvance => t.pc.toNat = s.pc.toNat + 2 ∨ t.pc.toNat = s.pc.toNat + 4
  | .setDirectly => directTarget i s = some t.pc
  | .advanceOrHold => if ∃ k, isPressed s k = true then t.pc.toNat = s.pc.toNat + 2 else t.pc = s.pc

/-- An instruction fetched inside memory that does not halt the engine moves PC as the table of R113 says. -/
theorem exec_movesPC {i : Instr} {s t : State} (hp : s.pc.toNat ≤ 0xFFE) (h : exec i s = .next t)
    (ht : t.status ≠ .halted) : MovesPC i s t := by
  have add {d : Word} (hd : d.toNat ≤ 4) (hpc : t.pc = s.pc + d) : t.pc.toNat = s.pc.toNat + d.toNat := by
    rw [hpc, toNat_add_of_le hp hd]
  have add2 : t.pc = s.pc + 2#16 → t.pc.toNat = s.pc.toNat + 2 := add (by decide)
  have add4 : t.pc = s.pc + 4#16 → t.pc.toNat = s.pc.toNat + 4 := add (by decide)
  unfold MovesPC
  cases hi : pcUpdate i with
  | advance => exact add2 (exec_pc_advance hi h ht)
  | skipOrAdvance => exact (exec_pc_skipOrAdvance hi h).imp add2 add4
  | setDirectly => exact exec_pc_setDirectly hi h ht
  | advanceOrHold =>
    obtain ⟨hk, hpc⟩ | ⟨hk, hpc⟩ := exec_pc_advanceOrHold hi h
    · exact (if_pos hk).mpr (add2 hpc)
    · exact (if_neg hk).mpr hpc

/-- Settles O22: a fatal error halts and holds PC; else an invalid word advances it, or the instruction moves it. -/
theorem pcMovesOnce : Obligations.PCMovesOnce := by
  intro s t hs h
  obtain ⟨hh, -⟩ | ⟨-, -, hc⟩ | ⟨-, hp, w, hw, ⟨i, hd, hc⟩ | ⟨e, hd, hc⟩⟩ := cycle_cases s
  · exact absurd hh hs
  · rw [hc] at h
    cases h
    exact ⟨fun _ => rfl, fun ht => absurd rfl ht⟩
  · rw [hc] at h
    refine ⟨exec_pc_of_halted (s := s.startStep) (by simp) h, fun ht => ⟨w, hw, ?_⟩⟩
    have hm : MovesPC i s.startStep t := exec_movesPC hp h ht
    rw [hd]
    exact hm
  · rw [hc] at h
    cases h
    refine ⟨nofun, fun _ => ⟨w, hw, ?_⟩⟩
    rw [hd]
    exact toNat_add_of_le hp (by decide)

end Sys2Proof.Machine
end

section
/-! SUPPORT. Proofs of the statements about control transfer (spec 41_flow): jumps, a call and a return that do not raise, and
the skips. -/

namespace Sys2Proof.Machine

/-! ## Jumps (R131, R137) -/

/-- Settles O28: the literal is zero-extended. -/
theorem jumpSetsPC : Obligations.JumpSetsPC :=
  fun nnn _ => ⟨_, rfl, literal12_toNat nnn, rfl⟩

/-- R137: the sum of a 12-bit literal and a byte does not wrap. -/
theorem literal12_add_widen_toNat (nnn : BitVec 12) (b : Byte) :
    (literal12 nnn + widen b).toNat = nnn.toNat + b.toNat := by
  rw [literal12_add_widen_eq_ofNat, BitVec.toNat_ofNat, Nat.mod_eq_of_lt (by omega)]

/-- Settles O34: the sum fits in 16 bits, and its bound is R24's. -/
theorem jumpWithOffset : Obligations.JumpWithOffset :=
  fun nnn s => ⟨_, rfl, literal12_add_widen_toNat nnn (s.reg 0), literal12_add_widen_le nnn (s.reg 0), rfl⟩

/-! ## Call and return (R130, R132) -/

/-- R130: with a stack that is not empty RET pops into PC. -/
theorem exec_ret_of_pos {s : State} (h : 0 < s.sp.val) :
    exec .ret s = .next { s with pc := s.stack[s.sp.val - 1], sp := ⟨s.sp.val - 1, by omega⟩ } := by
  rw [exec, execRet, pop_ok s h]
  rfl

/-- R132: with a stack that is not full CALL pushes the address of the next instruction. -/
theorem exec_call_of_lt (nnn : BitVec 12) {s : State} (h : s.sp.val < 16) :
    exec (.call nnn) s = .next { s with
      pc := literal12 nnn, stack := s.stack.set s.sp.val (s.pc + 2#16), sp := ⟨s.sp.val + 1, by omega⟩ } := by
  rw [exec, execCall, push_ok s _ h]
  rfl

/-- Settles O27: the pop answers, and the entry it reads exists. -/
theorem returnPopsStack : Obligations.ReturnPopsStack :=
  fun _ h => ⟨_, exec_ret_of_pos h, Vector.getElem?_eq_getElem _, Nat.sub_add_cancel h, rfl⟩

/-- Settles O29: the push answers, and it sets the one entry at SP. -/
theorem callPushes : Obligations.CallPushes :=
  fun nnn _ h => ⟨_, exec_call_of_lt nnn h, Vector.getElem?_set_self h, fun _ hk => Vector.getElem?_set_ne h hk.symm, rfl,
    literal12_toNat nnn, rfl⟩

/-- Settles O31: the return pops the entry that the call pushed. -/
theorem callThenReturn : Obligations.CallThenReturn :=
  fun nnn s h => ⟨_, _, exec_call_of_lt nnn h, exec_ret_of_pos (Nat.succ_pos s.sp.val), Vector.getElem_set_self h, rfl⟩

/-! ## Skips (R133 to R136) -/

/-- A skip on a Boolean test, stated by the condition that the test decides (R113). -/
theorem skipIf_eq_of_iff (s : State) {c : Bool} {p : Prop} [Decidable p] (h : c = true ↔ p) :
    s.skipIf c = { s with pc := if p then s.pc + 4 else s.pc + 2 } :=
  congrArg s.setPC (if_congr h rfl rfl)

/-- Settles O32: `==` and `!=` decide the two conditions. -/
theorem skipOnLiteral : Obligations.SkipOnLiteral :=
  fun _ _ s => ⟨congrArg _ (skipIf_eq_of_iff s beq_iff_eq), congrArg _ (skipIf_eq_of_iff s bne_iff_ne)⟩

/-- Settles O33: `==` and `!=` decide the two conditions. -/
theorem skipOnRegister : Obligations.SkipOnRegister :=
  fun _ _ s => ⟨congrArg _ (skipIf_eq_of_iff s beq_iff_eq), congrArg _ (skipIf_eq_of_iff s bne_iff_ne)⟩

end Sys2Proof.Machine
end

section
/-! SUPPORT. Proofs of the statements about the registers and the ALU (spec 42_alu): the two ways an instruction of the unit
ends (a result alone, or a result and then a flag), what the flag values and the results are as numbers, and the statements
assembled from both. -/

namespace Sys2Proof.Machine

/-! ## How an ALU instruction ends (R163) -/

/-- The destination holds the result. -/
theorem State.reg_setReg_self (s : State) (x : Reg) (b : Byte) : (s.setReg x b).reg x = b := by
  rw [State.reg_setReg, if_pos rfl]

/-- A register that is not the destination is as before. -/
theorem State.reg_setReg_of_ne (s : State) {x r : Reg} (b : Byte) (h : r ≠ x) : (s.setReg x b).reg r = s.reg r := by
  rw [State.reg_setReg, if_neg h.symm]

/-- With another destination than VF the result stays in it. -/
theorem State.reg_resultAndFlag_dest (s : State) {x : Reg} (b f : Byte) (h : x ≠ 15) :
    (s.resultAndFlag x b f).reg x = b := by
  rw [State.reg_resultAndFlag, if_neg (Ne.symm h : flagReg ≠ x), if_pos rfl]

/-- VF holds the flag, also as the destination (D9). -/
theorem State.reg_resultAndFlag_flag (s : State) (x : Reg) (b f : Byte) : (s.resultAndFlag x b f).reg 15 = f :=
  (State.reg_resultAndFlag s x flagReg b f).trans (if_pos rfl)

/-- A register that is neither the destination nor VF is as before. -/
theorem State.reg_resultAndFlag_of_ne (s : State) {x r : Reg} (b f : Byte) (hx : r ≠ x) (hf : r ≠ 15) :
    (s.resultAndFlag x b f).reg r = s.reg r := by
  rw [State.reg_resultAndFlag, if_neg (Ne.symm hf : flagReg ≠ r), if_neg hx.symm]

/-! ## Results without a flag (R150 to R155, R161) -/

/-- Settles O37: the literal is the result. -/
theorem loadLiteral : Obligations.LoadLiteral :=
  fun x nn s => ⟨_, rfl, s.reg_setReg_self x nn, fun _ hr => s.reg_setReg_of_ne nn hr, rfl⟩

/-- Settles O38: `+` on bytes is addition modulo 256. -/
theorem addLiteral : Obligations.AddLiteral := by
  intro x nn s
  refine ⟨_, rfl, ?_, fun _ hr => s.reg_setReg_of_ne _ hr, rfl⟩
  rw [State.reg_advance, State.reg_setReg_self, BitVec.toNat_add]

/-- Settles O39: V[y] is the result. -/
theorem copyRegister : Obligations.CopyRegister :=
  fun x y s => ⟨_, rfl, s.reg_setReg_self x (s.reg y), fun _ hr => s.reg_setReg_of_ne _ hr, rfl⟩

/-- Settles O40: with LOGIC_WRITES_VF false the three end without a flag, and a bit of a result is that of the operands. -/
theorem bitwiseLogic : Obligations.BitwiseLogic := by
  intro x y s
  refine ⟨_, _, _, rfl, rfl, rfl, fun b _ => ⟨?_, ?_, ?_⟩,
    fun _ hr => ⟨s.reg_setReg_of_ne _ hr, s.reg_setReg_of_ne _ hr, s.reg_setReg_of_ne _ hr⟩, rfl, rfl, rfl⟩
  · rw [State.logicResult_params, State.reg_advance, State.reg_setReg_self, BitVec.getLsbD_or]
  · rw [State.logicResult_params, State.reg_advance, State.reg_setReg_self, BitVec.getLsbD_and]
  · rw [State.logicResult_params, State.reg_advance, State.reg_setReg_self, BitVec.getLsbD_xor]

/-- A byte under a mask has no bit outside the mask (R161). -/
theorem and_and_not_self (b m : Byte) : b &&& m &&& ~~~m = 0 := by
  rw [BitVec.and_assoc, BitVec.and_not_self]
  exact BitVec.and_zero

/-- Settles O44: the draw is any byte, and the result is that byte under the mask. -/
theorem randomByteMasked : Obligations.RandomByteMasked := by
  intro x nn s
  have result : ((randomByte s).2.setReg x ((randomByte s).1 &&& nn)).advance.reg x = Config.freeByte s.draws &&& nn :=
    State.reg_setReg_self _ x _
  refine ⟨_, rfl, result, ?_, fun _ hr => State.reg_setReg_of_ne _ _ hr, rfl⟩
  rw [result, and_and_not_self]

/-! ## Results with a flag (R156 to R160) -/

/-- A flag on a decided condition, stated by the condition. -/
theorem flagByte_decide (p : Prop) [Decidable p] : flagByte (decide p) = if p then 1 else 0 :=
  if_congr decide_eq_true_iff rfl rfl

/-- A flag is its bit as a number. -/
theorem flagByte_toNat (b : Bool) : (flagByte b).toNat = b.toNat := by
  cases b <;> rfl

/-- `-` on bytes is subtraction modulo 256 (R157, R159). -/
theorem toNat_sub_eq_emod (a b : Byte) : ((a - b).toNat : Int) = ((a.toNat : Int) - b.toNat) % 256 := by
  rw [BitVec.toNat_sub]
  omega

/-- R158: the bit shifted out to the right is the remainder of halving. -/
theorem shiftedOutRight_toNat (b : Byte) : (shiftedOutRight b).toNat = b.toNat % 2 := by
  rw [shiftedOutRight, flagByte_toNat, BitVec.getLsbD, Nat.toNat_testBit, pow_zero, Nat.div_one]

/-- R160: the bit shifted out to the left is the carry of doubling. -/
theorem shiftedOutLeft_toNat (b : Byte) : (shiftedOutLeft b).toNat = b.toNat / 128 := by
  rw [shiftedOutLeft, flagByte_toNat, BitVec.getLsbD, Nat.toNat_testBit]
  omega

/-- A shift to the right by one position halves (R158). -/
theorem toNat_shiftRight_one (b : Byte) : (b >>> 1).toNat = b.toNat / 2 := by
  rw [BitVec.toNat_ushiftRight, Nat.shiftRight_one]

/-- A shift to the left by one position doubles modulo 256 (R160). -/
theorem toNat_shiftLeft_one (b : Byte) : (b <<< 1).toNat = 2 * b.toNat % 256 := by
  rw [BitVec.toNat_shiftLeft, Nat.shiftLeft_eq, pow_one, Nat.mul_comm]

/-- Settles O41: `+` on bytes is addition modulo 256, and the carry decides whether it wrapped. -/
theorem addSetsCarry : Obligations.AddSetsCarry := by
  intro x y s
  refine ⟨_, rfl, fun hx => ?_, ?_, fun _ hr hf => s.reg_resultAndFlag_of_ne _ _ hr hf, rfl⟩
  · rw [State.reg_resultAndFlag_dest _ _ _ hx, BitVec.toNat_add]
  · rw [State.reg_resultAndFlag_flag]
    exact flagByte_decide _

/-- Settles O42: SUB and SUBN are one subtraction with the operands in the two orders. -/
theorem subtractSetsNotBorrow : Obligations.SubtractSetsNotBorrow := by
  intro x y s
  refine ⟨_, _, rfl, rfl, fun hx => ?_, ?_, fun hx => ?_, ?_,
    fun _ hr hf => ⟨s.reg_resultAndFlag_of_ne _ _ hr hf, s.reg_resultAndFlag_of_ne _ _ hr hf⟩, rfl, rfl⟩
  · rw [State.reg_resultAndFlag_dest _ _ _ hx, toNat_sub_eq_emod]
  · rw [State.reg_resultAndFlag_flag]
    exact flagByte_decide _
  · rw [State.reg_resultAndFlag_dest _ _ _ hx, toNat_sub_eq_emod]
  · rw [State.reg_resultAndFlag_flag]
    exact flagByte_decide _

/-- With SHIFT_SRC = X a shift reads V[x] and ignores V[y] (D7). -/
theorem shiftOperand_params (s : State) (x y : Reg) : shiftOperand params s x y = s.reg x := rfl

/-- Settles O43: V[x] is the operand of both shifts, and the flag is the bit that the result lacks. -/
theorem shiftsSetBitOut : Obligations.ShiftsSetBitOut := by
  intro x y s
  refine ⟨_, _, rfl, rfl, fun hx => ⟨?_, ?_⟩, ?_, ?_,
    fun _ hr hf => ⟨s.reg_resultAndFlag_of_ne _ _ hr hf, s.reg_resultAndFlag_of_ne _ _ hr hf⟩, rfl, rfl⟩
  · rw [State.reg_resultAndFlag_dest _ _ _ hx, shiftOperand_params, toNat_shiftRight_one]
  · rw [State.reg_resultAndFlag_dest _ _ _ hx, shiftOperand_params, toNat_shiftLeft_one]
  · rw [State.reg_resultAndFlag_flag, shiftOperand_params, shiftedOutRight_toNat]
  · rw [State.reg_resultAndFlag_flag, shiftOperand_params, shiftedOutLeft_toNat]

end Sys2Proof.Machine
end

section
/-! SUPPORT. Proofs of the statements about the index register and memory (spec 43_index_memory): the values that go to I,
and what a store or a load of registers does when every byte of its span exists. -/

namespace Sys2Proof.Machine

/-! ## The index register (R170 to R172) -/

/-- Settles O45: the literal is zero-extended. -/
theorem loadIndexLiteral : Obligations.LoadIndexLiteral :=
  fun nnn _ => ⟨_, rfl, literal12_toNat nnn, rfl⟩

/-- A zero-extended byte is the same number (R171). -/
theorem widen_toNat (b : Byte) : (widen b).toNat = b.toNat :=
  BitVec.toNat_setWidth_of_le (by decide)

/-- Settles O46: `+` on words is addition modulo 65536. -/
theorem addToIndex : Obligations.AddToIndex := by
  intro x s
  refine ⟨_, rfl, ?_, rfl⟩
  rw [State.advance_i, State.setI_i, BitVec.toNat_add, widen_toNat]

/-- The low 4 bits of a byte are its remainder by 16 (R172, R200). -/
theorem lowNibble_val (b : Byte) : (lowNibble b).val = b.toNat % 16 :=
  BitVec.extractLsb'_toNat 0 4 b

/-- R172: the glyph set ends below 0x200, so the address of a glyph does not wrap. -/
theorem glyphAddress_toNat (b : Byte) : (glyphAddress params b).toNat = params.glyphBase + 5 * (b.toNat % 16) := by
  have hbase : params.glyphBase = 0 := rfl
  rw [glyphAddress, BitVec.toNat_ofNat, lowNibble_val, Nat.mod_eq_of_lt (by omega)]

/-- Settles O47: the last glyph, digit 15, ends inside the reserved region. -/
theorem glyphAddressInIndex : Obligations.GlyphAddressInIndex := by
  intro x s
  have hbase : params.glyphBase = 0 := rfl
  have haddr := glyphAddress_toNat (s.reg x)
  refine ⟨_, rfl, haddr, ?_, rfl⟩
  rw [State.advance_i, State.setI_i, haddr]
  omega

/-! ## Stores (R173, R174) -/

/-- R173: the span of the three digits lies inside memory when its last byte does. -/
theorem digits_fit {x : Reg} {s : State} (h : s.i.toNat + 2 ≤ 4095) :
    s.i.toNat + (bcdDigits (s.reg x)).length ≤ memSize :=
  Nat.succ_le_succ h

/-- R173: a store of digits whose bytes all exist writes them at I upward, and advances. -/
theorem exec_ldB_inRange {x : Reg} {s : State} (h : s.i.toNat + 2 ≤ 4095) :
    exec (.ldB x) s = .next (s.setMem (Memory.writeSpan s.mem s.i.toNat (bcdDigits (s.reg x)))).advance := by
  rw [exec, execLdB, memWriteSpan_inRange _ (digits_fit h)]
  rfl

/-- Settles O48: the span holds the three digits, each a number that fits in a byte. -/
theorem storeDecimalDigits : Obligations.StoreDecimalDigits := by
  intro x s hm hr
  have digit {k n : Nat} (hk : k < 3) (hn : n < 256) (hd : (bcdDigits (s.reg x))[k] = BitVec.ofNat 8 n) :
      (Memory.read (Memory.writeSpan s.mem s.i.toNat (bcdDigits (s.reg x))) (s.i.toNat + k)).toNat = n := by
    rw [Memory.read_writeSpan_inside hm (digits_fit hr) hk, hd, BitVec.toNat_ofNat, Nat.mod_eq_of_lt hn]
  have hbyte : (s.reg x).toNat < 256 := (s.reg x).isLt
  exact ⟨_, exec_ldB_inRange hr, digit (k := 0) (by decide) (by omega) rfl, digit (k := 1) (by decide) (by omega) rfl,
    digit (k := 2) (by decide) (by omega) rfl, fun _ ha => Memory.read_writeSpan_outside _ _ _ ha, rfl⟩

/-- Settles O49: the span of a dump holds V[0] to V[x], and a byte outside it is as before. -/
theorem dumpRegisters : Obligations.DumpRegisters := by
  intro x s hm hr
  have hexec := exec_ldMemVx_inRange hr
  exact ⟨_, hexec, fun _ hk => read_of_dump hm hr hexec hk,
    fun _ ha => Memory.read_writeSpan_outside _ _ _ (by simpa using ha), rfl⟩

/-! ## Loads (R175) -/

/-- Register k holds byte k when `bs` is loaded from register 0 upward and has such a byte (R175). -/
theorem reg_setRegs_loadedRegs_below (s : State) (bs : List Byte) (k : Reg) (h : k.val < bs.length) :
    (s.setRegs (loadedRegs s.v 0 bs)).reg k = bs[k.val] := by
  rw [State.reg, State.setRegs_v, loadedRegs_get, dif_pos ⟨Nat.zero_le _, by omega⟩]
  simp

/-- R175: a load whose bytes all exist puts them into V[0] to V[x], keeps I, and advances. -/
theorem exec_ldVxMem_inRange {x : Reg} {s : State} (h : s.i.toNat + x.val ≤ 4095) :
    ∃ bs : List Byte, exec (.ldVxMem x) s = .next (s.setRegs (loadedRegs s.v 0 bs)).advance ∧
      bs.length = x.val + 1 ∧ ∀ k (hk : k < bs.length), bs[k] = Memory.read s.mem (s.i.toNat + k) := by
  have hfit : s.i.toNat + (x.val + 1) ≤ memSize := Nat.succ_le_succ h
  have hspan := memReadSpan_inRange (m := s.mem) _ hfit
  refine ⟨_, ?_, memReadSpan_length hspan, fun k hk => by simp⟩
  rw [exec, execLdVxMem, hspan]
  rfl

/-- Settles O50: a register up to x has its byte in the span, and one above x has none. -/
theorem loadRegisters : Obligations.LoadRegisters := by
  intro x s hr
  obtain ⟨bs, hexec, hlen, hbs⟩ := exec_ldVxMem_inRange hr
  refine ⟨_, hexec, fun k hk => ?_, fun k hk => ?_, rfl⟩
  · have hin : k.val < bs.length := hlen ▸ Nat.lt_succ_of_le hk
    exact (reg_setRegs_loadedRegs_below s bs k hin).trans (hbs k.val hin)
  · have hout : bs.length ≤ k.val := hlen ▸ hk
    exact reg_setRegs_loadedRegs_above s bs k hout

/-- Settles O52: the dump keeps I, so the load reads the bytes that the dump wrote. -/
theorem dumpThenLoadRestores : Obligations.DumpThenLoadRestores := by
  intro x s t v hm hr h
  have hi : t.i = s.i := by
    rw [exec_ldMemVx_inRange hr] at h
    cases h
    rfl
  obtain ⟨u, hu, hloaded, -, -⟩ := loadRegisters x { t with v := v } (by simpa [hi] using hr)
  refine ⟨u, hu, fun k hk => ?_⟩
  calc u.reg k = Memory.read t.mem (t.i.toNat + k.val) := hloaded k hk
    _ = Memory.read t.mem (s.i.toNat + k.val) := by rw [hi]
    _ = s.reg k := read_of_dump hm hr h hk

end Sys2Proof.Machine
end

section
/-! SUPPORT. Proofs of the statements about the display (spec 44_display): clearing, one draw whose sprite bytes all exist, and
a second draw of the same sprite. -/

namespace Sys2Proof.Machine

/-! ## Clearing (R190) -/

/-- Settles O54: a pixel of a cleared framebuffer is false. -/
theorem clearScreen : Obligations.ClearScreen :=
  fun _ => ⟨_, rfl, fbPixel_fbClear, rfl⟩

/-! ## One draw (R191) -/

/-- R191, D17: the sprite bytes all exist when the last one does, or when there is none. -/
theorem memReadSpan_sprite {n : BitVec 4} {s : State} (h : n = 0 ∨ s.i.toNat + n.toNat - 1 ≤ 4095) :
    memReadSpan s.mem s.i.toNat n.toNat = .ok (spriteAt s n.toNat) := by
  obtain rfl | h := h
  · rfl
  · have hfit : s.i.toNat + n.toNat ≤ memSize := Nat.sub_le_iff_le_add.1 h
    exact memReadSpan_inRange _ hfit

/-- R191: a draw whose sprite bytes all exist puts the sprite into FB and the collision into VF, and advances. -/
theorem exec_drw_inRange (x y : Reg) {n : BitVec 4} {s : State} (h : n = 0 ∨ s.i.toNat + n.toNat - 1 ≤ 4095) :
    exec (.drw x y n) s =
      .next ((s.setFB (drawSprite s.fb (s.reg x) (s.reg y) (spriteAt s n.toNat)).1).setFlag
        (flagByte (drawSprite s.fb (s.reg x) (s.reg y) (spriteAt s n.toNat)).2)).advance := by
  rw [exec, execDrw, memReadSpan_sprite h]
  rfl

/-- A flag byte is 1 exactly when its bit is set (R22, D11). -/
theorem flagByte_eq_one_iff (b : Bool) : flagByte b = 1 ↔ b = true := by
  cases b <;> decide

/-- VF holds the flag that was written. -/
theorem State.reg_setFlag_flag (s : State) (b : Byte) : (s.setFlag b).reg 15 = b :=
  State.reg_setReg_self s flagReg b

/-- Settles O55: the flipped pixels and the collision are those of `drawSprite`, and VF is the flag byte of the collision. -/
theorem drawXorsSprite : Obligations.DrawXorsSprite := by
  intro x y n s h
  have hlen : (spriteAt s n.toNat).length ≤ 15 := by
    rw [spriteAt_length]
    exact Nat.le_of_lt_succ n.isLt
  obtain ⟨hflip, hhit⟩ := drawSprite_spec (s.reg x) (s.reg y) s.fb (spriteAt s n.toNat) hlen
  refine ⟨_, exec_drw_inRange x y h, hflip, ?_, ?_, fun _ hr => State.reg_setReg_of_ne _ _ hr, rfl⟩
  · rw [State.reg_advance, State.reg_setFlag_flag, flagByte_eq_one_iff]
    exact hhit
  · rw [State.reg_advance, State.reg_setFlag_flag]
    exact flagByte_zero_or_one _

/-! ## The same draw twice (R195 (b), C3) -/

/-- The bytes of a sprite depend on MEM and I only. -/
theorem spriteAt_congr {s t : State} (hm : t.mem = s.mem) (hi : t.i = s.i) (n : Nat) : spriteAt t n = spriteAt s n := by
  rw [spriteAt, hm, hi, spriteAt]

/-- A covered pixel is one of the grid (R193). -/
theorem lt_of_covers {x y : Byte} {bs : List Byte} {c r : Nat} (h : covers x y bs c r) : c < 64 ∧ r < 32 := by
  obtain ⟨row, col, -, rfl, rfl⟩ := h
  exact ⟨Nat.mod_lt _ (by decide), Nat.mod_lt _ (by decide)⟩

/-- Settles O56: the first draw leaves the coordinates, I and the bytes, so the second flips the same pixels back, and the
covered pixels it finds set are those that were not set before the first. -/
theorem drawTwiceRestores : Obligations.DrawTwiceRestores := by
  intro x y n s hx hy h
  obtain ⟨t, hexec, hflip, -, -, hregs, hframe⟩ := drawXorsSprite x y n s h
  have hmem : t.mem = s.mem := by rw [hframe]
  have hi : t.i = s.i := by rw [hframe]
  obtain ⟨u, hexec', hflip', hflag', -⟩ := drawXorsSprite x y n t (by rwa [hi])
  rw [hregs x hx, hregs y hy, spriteAt_congr hmem hi] at hflip' hflag'
  have flipped {c r : Nat} (hcov : covers (s.reg x) (s.reg y) (spriteAt s n.toNat) c r) :
      t.pixelAt c r = !s.pixelAt c r := by
    obtain ⟨hc, hr⟩ := lt_of_covers hcov
    exact Bool.eq_not.2 fun he => (hflip c r hc hr).1 he hcov
  refine ⟨t, u, hexec, hexec', fb_ext fun c r hc hr => ?_, hflag'.trans ?_⟩
  · by_cases hcov : covers (s.reg x) (s.reg y) (spriteAt s n.toNat) c r
    · have hback : u.pixelAt c r = !t.pixelAt c r := Bool.eq_not.2 fun he => (hflip' c r hc hr).1 he hcov
      rwa [flipped hcov, Bool.not_not] at hback
    · exact ((hflip' c r hc hr).2 hcov).trans ((hflip c r hc hr).2 hcov)
  · refine exists_congr fun c => exists_congr fun r => and_congr_right fun hcov => ?_
    rw [flipped hcov, Bool.not_eq_true']

end Sys2Proof.Machine
end

section
/-! SUPPORT. Proofs of the statements about the keys and the timers (spec 45_keys_timers): the key wait with and without
a pressed key, repeated Steps of a wait, the key skips, and the timer moves. -/

namespace Sys2Proof.Machine

/-! ## The key wait (R202, R206) -/

/-- KEY_SELECT looks at the keys in ascending order (D13). -/
theorem keySelect_ascending : params.keySelect.Pairwise (· < ·) := by decide

/-- AnyPressed finds the lowest pressed key: the keys that KEY_SELECT puts before it are lower (R206, D13). -/
theorem anyPressed_lowest {s : State} {k : Key} (hk : isPressed s k = true) (hlow : ∀ j, j < k → isPressed s j = false) :
    anyPressed params s = some k := by
  obtain ⟨before, after, hsplit⟩ := List.append_of_mem (mem_keySelect k)
  have hsorted : (before ++ k :: after).Pairwise (· < ·) := hsplit ▸ keySelect_ascending
  have hbefore : ∀ j ∈ before, j < k := fun j hj => (List.pairwise_append.1 hsorted).2.2 j hj k List.mem_cons_self
  refine List.find?_eq_some_iff_append.2 ⟨hk, before, after, hsplit, fun j hj => ?_⟩
  rw [hlow j (hbefore j hj), Bool.not_false]

/-- R202: with no key pressed LD Vx, K only writes STATUS. -/
theorem exec_ldVxK_wait (x : Reg) {s : State} (h : ∀ k, isPressed s k = false) :
    exec (.ldVxK x) s = .next (s.setStatus .awaitingKey) := by
  rw [exec, execLdVxK, anyPressed_none.2 h]

/-- R202: with `k` the lowest pressed key LD Vx, K stores its index and advances. -/
theorem exec_ldVxK_lowest (x : Reg) {k : Key} {s : State} (hk : isPressed s k = true)
    (hlow : ∀ j, j < k → isPressed s j = false) :
    exec (.ldVxK x) s = .next (s.setReg x (keyByte k)).advance := by
  rw [exec, execLdVxK, anyPressed_lowest hk hlow]

/-- The index of a key fits in a byte (R202). -/
theorem keyByte_toNat (k : Key) : (keyByte k).toNat = k.val := by
  rw [keyByte, BitVec.toNat_ofNat, Nat.mod_eq_of_lt (by omega)]

/-- Settles O58: AnyPressed finds no key, or the lowest pressed one. -/
theorem keyWaitStoresLowestKey : Obligations.KeyWaitStoresLowestKey := by
  intro x s
  refine ⟨exec_ldVxK_wait x, fun k hk hlow => ?_⟩
  refine ⟨_, exec_ldVxK_lowest x hk hlow, ?_, fun _ hr => s.reg_setReg_of_ne _ hr, rfl⟩
  rw [State.reg_advance, State.reg_setReg_self, keyByte_toNat]

/-! ## Repeated polls (R118, R202) -/

/-- R202: the Step of a key wait with no key pressed leaves PC, so the word at PC is still the wait. -/
theorem step_keyWait {x : Reg} {w : Word} {s : State} (hq : s.schedule = []) (hs : s.status ≠ .halted)
    (hw : fetch s = .ok w) (hd : decode w = .ok (.ldVxK x)) (hkey : ∀ k, isPressed s k = false) :
    step s = .next { s with status := .awaitingKey, stage := .started } := by
  have hkey' : ∀ k, isPressed s.startStep k = false := hkey
  rw [step_eq_cycle hq, cycle, if_neg hs, hw]
  exact (executeWord_ok hd s).trans (exec_ldVxK_wait x hkey')

/-- Settles O59, by induction on the number of Steps: the state after a poll meets the premises again, and a poll of it gives
the same state. -/
theorem keyWaitRepeats : Obligations.KeyWaitRepeats := by
  intro n x w s hq hs hw hd hkey
  induction n generalizing s with
  | zero => exact core_run_succ 0 (step_keyWait hq hs hw hd hkey)
  | succ n ih =>
    rw [core_run_succ (n + 1) (step_keyWait hq hs hw hd hkey)]
    exact ih _ hq nofun hw hkey

/-! ## The key skips (R200, R201) -/

/-- A skip on the opposite of a Boolean test (R201). -/
theorem skipIf_not (s : State) (c : Bool) :
    s.skipIf (!c) = { s with pc := if c = true then s.pc + 2 else s.pc + 4 } := by
  have hc : (!c) = true ↔ ¬c = true := by rw [Bool.not_eq_true', Bool.not_eq_true]
  rw [skipIf_eq_of_iff s hc, ite_not]

/-- Settles O57: both test the key of the low nibble. -/
theorem skipOnKey : Obligations.SkipOnKey := by
  intro x k s hk
  have hnibble : lowNibble (s.reg x) = k := Fin.ext ((lowNibble_val _).trans hk.symm)
  rw [exec, execSkp, exec, execSknp, hnibble]
  exact ⟨congrArg _ (skipIf_eq_of_iff s Iff.rfl), congrArg _ (skipIf_not s (isPressed s k))⟩

/-! ## The timer moves (R203 to R205) -/

/-- Settles O60: DT is the result of the first, and a timer takes V[x] in the others. -/
theorem timerMoves : Obligations.TimerMoves :=
  fun x s => ⟨⟨_, rfl, s.reg_setReg_self x s.dt, fun _ hr => s.reg_setReg_of_ne _ hr, rfl⟩, rfl, rfl⟩

end Sys2Proof.Machine
end

section
/-! SUPPORT. Proofs of the statements about exceptions and events (spec 60_exceptions): where an instruction raises and what
that leaves, which event comes next and which one can stop the machine, the Ticks, the keys, and the parked state. -/

namespace Sys2Proof.Machine

/-! ## Where an instruction raises (R222 to R224, R226) -/

/-- R222: CALL raises on a full stack. -/
theorem exec_call_full (nnn : BitVec 12) {s : State} (h : s.sp = 16) :
    exec (.call nnn) s = .next (s.raise .stackOverflow) := by
  rw [exec, execCall, push_full s _ h]
  rfl

/-- R223: RET raises on an empty stack. -/
theorem exec_ret_empty {s : State} (h : s.sp = 0) : exec .ret s = .next (s.raise .stackUnderflow) := by
  rw [exec, execRet, pop_empty s h]
  rfl

/-- Settles O30: an error of the stack is taken in the state before the instruction. -/
theorem stackFaults : Obligations.StackFaults :=
  ⟨fun nnn _ h => exec_call_full nnn h, fun _ h => exec_ret_empty h⟩

/-- R224: DRW raises when it has a sprite byte and the last one does not exist. -/
theorem exec_drw_outOfRange (x y : Reg) {n : BitVec 4} {s : State} (hn : 1 ≤ n.toNat)
    (h : 4095 < s.i.toNat + n.toNat - 1) :
    exec (.drw x y n) s = .next (s.raise (.addressOutOfRange (max s.i.toNat memSize))) := by
  have hspan : memSize < s.i.toNat + n.toNat := Nat.lt_sub_iff_add_lt.1 h
  rw [exec, execDrw, memReadSpan_outOfRange hn hspan]
  rfl

/-- R224: LD B, Vx raises when the byte of the ones does not exist. -/
theorem exec_ldB_outOfRange (x : Reg) {s : State} (h : 4095 < s.i.toNat + 2) :
    exec (.ldB x) s = .next (s.raise (.addressOutOfRange (max s.i.toNat memSize))) := by
  have hspan : memSize < s.i.toNat + (bcdDigits (s.reg x)).length := Nat.succ_lt_succ h
  have hne : bcdDigits (s.reg x) ≠ [] := List.cons_ne_nil _ _
  rw [exec, execLdB, memWriteSpan_outOfRange hne hspan]
  rfl

/-- R224: LD [I], Vx raises when the byte of V[x] does not exist. -/
theorem exec_ldMemVx_outOfRange {x : Reg} {s : State} (h : 4095 < s.i.toNat + x.val) :
    exec (.ldMemVx x) s = .next (s.raise (.addressOutOfRange (max s.i.toNat memSize))) := by
  have hlen : (dumpedRegs s.v x).length = x.val + 1 := dumpedRegs_length s.v x
  have hne : dumpedRegs s.v x ≠ [] := List.ne_nil_of_length_eq_add_one hlen
  have hspan : memSize < s.i.toNat + (dumpedRegs s.v x).length := hlen ▸ Nat.succ_lt_succ h
  rw [exec, execLdMemVx, memWriteSpan_outOfRange hne hspan]
  rfl

/-- R224: LD Vx, [I] raises when the byte for V[x] does not exist. -/
theorem exec_ldVxMem_outOfRange {x : Reg} {s : State} (h : 4095 < s.i.toNat + x.val) :
    exec (.ldVxMem x) s = .next (s.raise (.addressOutOfRange (max s.i.toNat memSize))) := by
  have hspan : memSize < s.i.toNat + (x.val + 1) := Nat.succ_lt_succ h
  rw [exec, execLdVxMem, memReadSpan_outOfRange (Nat.succ_pos _) hspan]
  rfl

/-- Settles O51: each of the four raises with the first byte that does not exist, in the state before it. -/
theorem addressFaults : Obligations.AddressFaults := by
  intro i s h
  cases i with
  | drw x y n =>
    obtain ⟨hn, hlast⟩ := h
    exact exec_drw_outOfRange x y hn hlast
  | ldB x => exact exec_ldB_outOfRange x h
  | ldMemVx x => exact exec_ldMemVx_outOfRange h
  | ldVxMem x => exact exec_ldVxMem_outOfRange h
  | _ => exact h.elim

/-! ## The next event, and what stops the machine (R12, R220, R261) -/

/-- Settles O11. -/
theorem scheduledEventComesNext : Obligations.ScheduledEventComesNext :=
  fun _ => ⟨step_eq_cycle, fun _ _ => step_eq_occur⟩

/-- A Step of the engine always answers (R117, R226). -/
theorem cycle_answers (s : State) : ∃ t, cycle s = .next t := by
  obtain ⟨-, hc⟩ | ⟨-, -, hc⟩ | ⟨-, -, w, -, ⟨i, -, hc⟩ | ⟨e, -, hc⟩⟩ := cycle_cases s
  · exact ⟨_, hc⟩
  · exact ⟨_, hc⟩
  · rw [hc]
    exact execAlwaysAnswers i s.startStep
  · exact ⟨_, hc⟩

/-- Everything a Load can answer: the stage and the length of the image decide (R220, R261, U20). -/
theorem load_cases (s : State) (image : List Byte) :
    (∃ t, load s image = .next t) ∨
      (load s image = .fault .loadError ∧ s.stage = .fresh ∧ 3584 < image.length) ∨
      (load s image = .refused .secondLoad ∧ s.stage = .loaded) ∨
      (load s image = .refused .lateLoad ∧ s.stage = .started) := by
  cases hs : s.stage with
  | fresh =>
    obtain hl | hl := Nat.lt_or_ge 3584 image.length
    · exact .inr (.inl ⟨load_tooLarge hs hl, rfl, hl⟩)
    · exact .inl ⟨_, load_fits hs hl⟩
  | loaded => exact .inr (.inr (.inl ⟨load_loaded image hs, rfl⟩))
  | started => exact .inr (.inr (.inr ⟨load_started image hs, rfl⟩))

/-- Settles O12: every event but a Load answers, and the schedule does not matter to what a Load answers. -/
theorem stepStopsOnlyOnLoad : Obligations.StepStopsOnlyOnLoad := by
  intro s
  obtain ⟨e, rest, hq, he⟩ := step_event s
  rw [he]
  cases e with
  | step => exact .inl (cycle_answers _)
  | tick | setKey | reset => exact .inl ⟨_, rfl⟩
  | load image =>
    have hload : s.schedule = .load image :: rest := hq.resolve_right nofun
    exact (load_cases { s with schedule := rest } image).imp_right fun hstop => ⟨image, rest, hload, hstop⟩

/-! ## Ticks and keys (R231, R233) -/

/-- R231: a timer goes down by one and stops at zero. -/
theorem tickTimer_toNat (b : Byte) : (tickTimer b).toNat = b.toNat - 1 := by
  rw [tickTimer]
  split
  · next h => rw [h]; rfl
  · next h => bv_omega

/-- Settles O14, by induction on the number of Ticks: the first takes one, the others what is left. -/
theorem ticksSaturate : Obligations.TicksSaturate := by
  refine ⟨fun _ => rfl, fun n s => ?_⟩
  induction n generalizing s with
  | zero => simp [ticks]
  | succ n ih =>
    have hsub (b : Byte) : (tickTimer b).toNat - n = b.toNat - (n + 1) := by
      rw [tickTimer_toNat, Nat.sub_sub, Nat.add_comm]
    rw [ticks, ih, tick_dt, tick_st, hsub, hsub]
    rfl

/-- Reading key `j` after key `k` is set (R233). -/
theorem isPressed_setKey (s : State) (k j : Key) (b : Bool) :
    isPressed (setKey s k b) j = if k = j then b else isPressed s j := by
  simp [isPressed, Vector.getElem_set, Fin.ext_iff]

/-- Settles O15: one entry of KEY is written. -/
theorem setKeyWritesOneKey : Obligations.SetKeyWritesOneKey := by
  intro k b s
  refine ⟨setKey s k b, rfl, ?_, fun j hj => ?_, rfl⟩
  · rw [isPressed_setKey, if_pos rfl]
  · rw [isPressed_setKey, if_neg hj.symm]

/-! ## Parked states (R241, D24) -/

/-- The word 0x1000 + PC is the jump to PC when PC has 12 bits (R84, R131). -/
theorem selfJump_eq_encode {pc : Word} (h : pc.toNat ≤ 0xFFE) : 0x1000#16 + pc = encode (.jp (fieldNNN pc)) := by
  apply BitVec.eq_of_toNat_eq
  rw [encode, formatA_toNat, fieldNNN_toNat, BitVec.toNat_add, BitVec.toNat_ofNat, BitVec.toNat_ofNat]
  omega

/-- The literal of that jump is PC. -/
theorem literal12_fieldNNN {pc : Word} (h : pc.toNat ≤ 0xFFE) : literal12 (fieldNNN pc) = pc := by
  apply BitVec.eq_of_toNat_eq
  rw [literal12_toNat, fieldNNN_toNat]
  omega

/-- A Step that is not HALTED executes the word that it fetches (R117). -/
theorem cycle_of_fetch {s : State} {w : Word} (hs : s.status ≠ .halted) (hw : fetch s = .ok w) :
    cycle s = executeWord w s := by
  rw [cycle, if_neg hs, hw]

/-- The Step of a parked state jumps to where it is. -/
theorem step_parked {s : State} (hq : s.schedule = []) (hs : s.Parked) :
    step s = .next { s with stage := .started } := by
  obtain ⟨hrun, -, hin, hjump⟩ := hs
  have hdec : decode (0x1000#16 + s.pc) = .ok (.jp (fieldNNN s.pc)) := by
    rw [selfJump_eq_encode hin]
    exact decodeEncodeAgree _ rfl
  have hexec : exec (.jp (fieldNNN s.pc)) s.startStep = .next s.startStep := by
    rw [exec, execJp, literal12_fieldNNN hin]
    rfl
  have hstart : s.startStep = { s with stage := .started } := by
    rw [State.startStep, ← hrun]
  have hlive : s.status ≠ .halted := hrun ▸ nofun
  rw [step_eq_cycle hq, cycle_of_fetch hlive hjump, executeWord_ok hdec, hexec, hstart]

/-- Being parked does not depend on the model's stage. -/
theorem State.Parked.setStage {s : State} (hs : s.Parked) (g : Stage) : State.Parked { s with stage := g } :=
  ⟨hs.running, hs.noFault, hs.inside, hs.selfJump⟩

/-- Settles O36, by induction on the number of Steps: the state after one is parked, and a Step of it gives the same state. -/
theorem parkedStays : Obligations.ParkedStays := by
  intro n s hq hs
  induction n generalizing s with
  | zero => exact core_run_succ 0 (step_parked hq hs)
  | succ n ih =>
    rw [core_run_succ (n + 1) (step_parked hq hs)]
    exact ih _ hq (hs.setStage .started)

end Sys2Proof.Machine
end
